-- ==== Sys2Proof/Word.lean ====
section
/-!
DEFINITION. The byte of the links, the DRAM and the flash, and the fixed-size table in which the part keeps its numbered
records (ring buffers, slots, extents, tiles, overrides, profiles).
-/

namespace Sys2Proof

/-- One byte on a link, in DRAM or on the flash. -/
abbrev Byte := BitVec 8

/-- A table of exactly `n` records, numbered from 0. -/
structure Table (α : Type) (n : Nat) where
  data : List α
  size : data.length = n
deriving DecidableEq, Repr

variable {α β : Type} {n : Nat}

/-- The record with number `i`. -/
def Table.get (t : Table α n) (i : Fin n) : α := t.data.get (i.cast t.size.symm)

/-- The table with record `i` replaced. -/
def Table.set (t : Table α n) (i : Fin n) (v : α) : Table α n :=
  ⟨t.data.set i v, by simp [t.size]⟩

/-- The table with record `i` changed by `f`. -/
def Table.update (t : Table α n) (i : Fin n) (f : α → α) : Table α n := t.set i (f (t.get i))

/-- Every record of the table changed by `f`. -/
def Table.map (f : α → β) (t : Table α n) : Table β n := ⟨t.data.map f, by simp [t.size]⟩

/-- The table whose record `i` is `f i`. -/
def Table.tabulate (n : Nat) (f : Fin n → α) : Table α n := ⟨(List.finRange n).map f, by simp⟩

/-- The table whose records are all `v`. -/
def Table.replicate (n : Nat) (v : α) : Table α n := ⟨List.replicate n v, by simp⟩

/-- The lowest number whose record satisfies `p`. -/
def Table.first? (t : Table α n) (p : α → Bool) : Option (Fin n) :=
  (List.finRange n).find? fun i => p (t.get i)

/-- The numbers whose records satisfy `p`, rising. -/
def Table.indices (t : Table α n) (p : α → Bool) : List (Fin n) :=
  (List.finRange n).filter fun i => p (t.get i)

/-- How many records satisfy `p`. -/
def Table.count (t : Table α n) (p : α → Bool) : Nat := t.data.countP p

end Sys2Proof
end

