-- ==== Sys2Proof/Config.lean ====
section
/-!
DEFINITION. The sizes the manual fixes, and the free values: constants without a body for what the manual leaves open. A
free value takes the model's own counter (State.freeCount) or the place it stands at, so nothing can be proved of it.
-/

namespace Sys2Proof.Config

/-- Bytes of a stored page, a ring buffer, a slot and an export (00_scope.md, R117). -/
def pageBytes : Nat := 18874368

/-- First byte of the Cb plane in the export order (R117). -/
def cbBase : Nat := 12582912

/-- First byte of the Cr plane in the export order (R117). -/
def crBase : Nat := 15728640

/-- Bytes of one flash page (00_scope.md). -/
def flashPage : Nat := 4096

/-- Flash pages of one block (00_scope.md). -/
def pagesPerBlock : Nat := 32

/-- Blocks of one extent (R120). -/
def extentBlocks : Nat := 145

/-- What a byte of DRAM that nothing has written reads as. DESIGN CHOICE (log 20, unsafe): R16 and R119 leave it
undefined. -/
def dramBlank : Byte := 0#8

/-- What an erased byte of flash reads as (R184). -/
def flashBlank : Byte := 0xFF#8

/-- Free value (log 18): the comparator's output when the LAMP_SENSE pin is exactly at the threshold (R81). -/
opaque comparatorTie : Nat → Bool

/-- Free value (log 23): byte `offset` of a page that has met an uncorrectable error, as it is read (R15, R107, R117). The
arguments: the count of free values drawn, the page (ring buffers 0 to 3, then slots 4 to 27), the offset. -/
opaque byteAsRead : Nat → Nat → Nat → Byte

/-- Free value (log 22): byte `offset` of a flash page or block whose program or erase was cut or failed (R157). The first
argument numbers the cut. -/
opaque flashCutByte : Nat → Nat → Byte

/-- Free value (log 16): the output frame number in a FROZEN event with the outcome WITHDRAWN (R68, R70 give none). -/
opaque withdrawnFrame : Nat → Nat

/-- Free value (log 14): the number byte of a two-byte field whose kind does not read it (R182). The argument is the kind
byte. -/
opaque unreadNumber : Nat → Byte

/-- Free value (log 15): the source level reported for an override whose source is NONE (R85: it has no level). -/
opaque levelOfNone : Byte

end Sys2Proof.Config
end

