-- ==== Sys2Proof/Syntax.lean ====
section
/-!
DEFINITION. The commands of the part: one constructor for each row of spec/opcode_table.json, with the row's operands.
A master's command carries its link, its tag and its payload bytes as they stood in the COMMAND frame (R161, R182).
-/

namespace Sys2Proof

/-- The two command links (R159). -/
inductive Link where
  | panel
  | bridge
deriving DecidableEq, Repr

/-- The two debounced guard inputs (R79). -/
inductive GuardInput where
  | armFold
  | lampSense
deriving DecidableEq, Repr

/-- Who met an uncorrectable error in a read of a slot (R107). The Page Mover's reads end as COPY_FAILED (R101). -/
inductive SlotReader where
  | compositor
  | flashPort
  | exporter
deriving DecidableEq, Repr

/-- How a flash page read ended (R143). -/
inductive ReadResult where
  | data
  | uncorrectable
deriving DecidableEq, Repr

/-- How a flash page program or block erase ended (R143). -/
inductive Verdict where
  | pass
  | fail
deriving DecidableEq, Repr

/-- How a suspend ended (R143, R150). -/
inductive SuspendResult where
  | suspended
  | finishedPass
  | finishedFail
deriving DecidableEq, Repr

/-- Which moment of a link transaction a step is (R159, log 4): chip-select falls; the kind byte and `bytes` bytes after it have
been clocked; the transaction ends, with what it held. A transaction that no other step interrupts is the one step `ends`. -/
inductive Moment (α : Type) where
  | falls
  | clocks (bytes : Nat)
  | ends (held : α)
deriving DecidableEq, Repr

/-- The commands. Constructor order is the table's order. -/
inductive Instr where
  /-- POWER_ON_RESET (R172). -/
  | powerOnReset
  /-- DRAM_CHECK_END (R172): whether the check passed. -/
  | dramCheckEnd (passed : Bool)
  /-- COMMAND_FRAME (R161): a complete frame; at its end, how many bytes were clocked after it. -/
  | commandFrame (link : Link) (tag code : Byte) (payload : List Byte) (moment : Moment Nat)
  /-- UNKNOWN_KIND (R159): the kind byte; at the end, how many bytes were clocked after it. -/
  | unknownKind (link : Link) (kind : Byte) (moment : Moment Nat)
  /-- FETCH (R164): at the end, how many bytes were clocked after the kind byte. -/
  | fetch (link : Link) (moment : Moment Nat)
  /-- BULK (R117): at the end, how many bytes were clocked after the kind byte. -/
  | bulk (link : Link) (moment : Moment Nat)
  /-- LINK_RESET (R170): at the end, how many bytes were clocked after the kind byte. -/
  | linkReset (link : Link) (moment : Moment Nat)
  /-- COMMAND_TAKEN (R163). -/
  | commandTaken (link : Link)
  /-- UNKNOWN_COMMAND (R163). -/
  | unknownCommand (link : Link) (tag code : Byte) (payload : List Byte)
  | readIntake (link : Link) (tag : Byte) (payload : List Byte)
  | writeProfile (link : Link) (tag : Byte) (payload : List Byte)
  | readProfile (link : Link) (tag : Byte) (payload : List Byte)
  | selectProfile (link : Link) (tag : Byte) (payload : List Byte)
  | readTile (link : Link) (tag : Byte) (payload : List Byte)
  | readConditioner (link : Link) (tag : Byte) (payload : List Byte)
  | zoomTo (link : Link) (tag : Byte) (payload : List Byte)
  | panBy (link : Link) (tag : Byte) (payload : List Byte)
  | setRotation (link : Link) (tag : Byte) (payload : List Byte)
  | readView (link : Link) (tag : Byte) (payload : List Byte)
  | stageLayout (link : Link) (tag : Byte) (payload : List Byte)
  | stagePane (link : Link) (tag : Byte) (payload : List Byte)
  | discardStage (link : Link) (tag : Byte) (payload : List Byte)
  | apply (link : Link) (tag : Byte) (payload : List Byte)
  | freeze (link : Link) (tag : Byte) (payload : List Byte)
  | unfreeze (link : Link) (tag : Byte) (payload : List Byte)
  | readPresentation (link : Link) (tag : Byte) (payload : List Byte)
  | setLamp (link : Link) (tag : Byte) (payload : List Byte)
  | setLampSense (link : Link) (tag : Byte) (payload : List Byte)
  | writeOverride (link : Link) (tag : Byte) (payload : List Byte)
  | clearOverride (link : Link) (tag : Byte) (payload : List Byte)
  | readGuard (link : Link) (tag : Byte) (payload : List Byte)
  | setClock (link : Link) (tag : Byte) (payload : List Byte)
  | capture (link : Link) (tag : Byte) (payload : List Byte)
  | deleteSlot (link : Link) (tag : Byte) (payload : List Byte)
  | readSlot (link : Link) (tag : Byte) (payload : List Byte)
  | readStore (link : Link) (tag : Byte) (payload : List Byte)
  | readLesson (link : Link) (tag : Byte) (payload : List Byte)
  | lessonInsert (link : Link) (tag : Byte) (payload : List Byte)
  | lessonRemove (link : Link) (tag : Byte) (payload : List Byte)
  | lessonMove (link : Link) (tag : Byte) (payload : List Byte)
  | lessonClear (link : Link) (tag : Byte) (payload : List Byte)
  | setInterval (link : Link) (tag : Byte) (payload : List Byte)
  | stopInterval (link : Link) (tag : Byte) (payload : List Byte)
  | exportSlot (link : Link) (tag : Byte) (payload : List Byte)
  | cancelExport (link : Link) (tag : Byte) (payload : List Byte)
  | saveLesson (link : Link) (tag : Byte) (payload : List Byte)
  | cancelSave (link : Link) (tag : Byte) (payload : List Byte)
  | recall (link : Link) (tag : Byte) (payload : List Byte)
  | recallLesson (link : Link) (tag : Byte) (payload : List Byte)
  | deleteArchived (link : Link) (tag : Byte) (payload : List Byte)
  | remount (link : Link) (tag : Byte) (payload : List Byte)
  | readArchive (link : Link) (tag : Byte) (payload : List Byte)
  | readEntry (link : Link) (tag : Byte) (payload : List Byte)
  | readJobs (link : Link) (tag : Byte) (payload : List Byte)
  | setWatermark (link : Link) (tag : Byte) (payload : List Byte)
  | setEventMask (link : Link) (tag : Byte) (payload : List Byte)
  | readLink (link : Link) (tag : Byte) (payload : List Byte)
  | partReset (link : Link) (tag : Byte) (payload : List Byte)
  | readFaults (link : Link) (tag : Byte) (payload : List Byte)
  | clearFaults (link : Link) (tag : Byte) (payload : List Byte)
  | setFaultPolicy (link : Link) (tag : Byte) (payload : List Byte)
  | cameraFrameStart
  | cameraLineStart
  /-- CAMERA_LINE_END (R3): the samples of the line in arrival order (R1). -/
  | cameraLineEnd (samples : List Byte)
  | lineGapTimerExpiry
  | intakeWatchExpiry
  | outputFrameStart
  /-- LATE_LINE (R77): the line of the output frame that was late. -/
  | lateLine (line : Nat)
  | ringReadUncorrectable (buffer : Fin 4)
  | slotReadUncorrectable (slot : Fin 24) (reader : SlotReader)
  | dramCorrected
  | copyComplete
  | copyFailed
  /-- ARM_FOLD_CHANGE (R80): the new level of the pin. -/
  | armFoldChange (level : Bool)
  /-- LAMP_SENSE_CHANGE (R81): the new voltage of the pin in microvolts. -/
  | lampSenseChange (microvolts : Nat)
  | debounceRunExpiry (input : GuardInput)
  | lessonClockTick
  | intervalExpiry
  | exportStall (link : Link)
  | mountPageRead (result : ReadResult)
  | blankCheckRead (result : ReadResult)
  | pageProgramFinish (verdict : Verdict)
  | readJobPageRead (result : ReadResult)
  | wordCheckRead (result : ReadResult)
  | wordProgramFinish (verdict : Verdict)
  | blockEraseFinish (verdict : Verdict)
  | suspendFinish (result : SuspendResult)
  | resumeFinish
  | flashResetFinish
  | commandDeadlineExpiry
  | flashResetExpiry
  /-- MALFORMED_COMMAND_FRAME (R162): at the end, the bytes received after the kind byte before chip-select rose. -/
  | malformedCommandFrame (link : Link) (moment : Moment (List Byte))
deriving DecidableEq, Repr

end Sys2Proof
end

