-- ==== Sys2Proof/Machine/State.lean ====
section
/-!
DEFINITION. The state of the part as plain data: every record the chapters give its twelve blocks, the queue of waiting
commands, and the state right after power-on reset.
-/

namespace Sys2Proof.Machine

/-- A pair of records, one for each link. -/
structure PerLink (α : Type) where
  panel : α
  bridge : α
deriving DecidableEq, Repr

def PerLink.get {α : Type} (p : PerLink α) : Link → α
  | .panel => p.panel
  | .bridge => p.bridge

def PerLink.set {α : Type} (p : PerLink α) (l : Link) (v : α) : PerLink α :=
  match l with
  | .panel => { p with panel := v }
  | .bridge => { p with bridge := v }

/-- The two panes (R40). -/
inductive Pane where
  | zero
  | one
deriving DecidableEq, Repr

/-- A pair of records, one for each pane. -/
structure PerPane (α : Type) where
  pane0 : α
  pane1 : α
deriving DecidableEq, Repr

def PerPane.get {α : Type} (p : PerPane α) : Pane → α
  | .zero => p.pane0
  | .one => p.pane1

def PerPane.set {α : Type} (p : PerPane α) (q : Pane) (v : α) : PerPane α :=
  match q with
  | .zero => { p with pane0 := v }
  | .one => { p with pane1 := v }

/-- Addressed bytes (a page, or the flash) as cells in canonical form: see Machine/Mem.lean. -/
abbrev Mem := List Host.Cell

/-! ## Camera Intake and Frame Ring (01) -/

inductive IntakeState where
  | stopped
  | between
  | inFrame
deriving DecidableEq, Repr

/-- The Camera Intake (R2 to R9). A timer is none while stopped, and otherwise the milliseconds it was loaded with. -/
structure Intake where
  state : IntakeState
  lineCount : Nat
  target : Option (Fin 4)
  frameCounter : Nat
  truncated : Nat
  watch : Option Nat
  lineGap : Option Nat
  loss : Bool
  lossEnded : Bool
  /-- A line has started and has not ended (implied by R2 and R3, log 25). -/
  lineOpen : Bool
deriving DecidableEq, Repr

inductive BufferState where
  | free
  | filling
  | complete
deriving DecidableEq, Repr

/-- One ring buffer (R11) with its content in the export order (R37). -/
structure RingBuffer where
  state : BufferState
  frameNumber : Nat
  pins : Nat
  damaged : Bool
  content : Mem
deriving DecidableEq, Repr

/-- The Frame Ring (R11): four buffers and the completion list, oldest first. -/
structure Ring where
  buffers : Table RingBuffer 4
  order : List (Fin 4)
deriving DecidableEq, Repr

/-! ## Page Conditioner (02) -/

/-- The nine fields of a profile (R17). -/
structure Profile where
  white : Nat
  gmax : Nat
  floor : Nat
  smooth : Nat
  coring : Nat
  sharpen : Nat
  ink : Bool
  black : Nat
  chroma : Nat
deriving DecidableEq, Repr

/-- The Page Conditioner (R17 to R31). The last three fields are the lines that R4, R34 and R37 make it keep. -/
structure Conditioner where
  profiles : Table Profile 4
  live : Fin 4
  latched : Profile
  latchedNumber : Fin 4
  histograms : Table (Table Nat 16) 768
  map : Table Nat 768
  lastRaw : Table Nat 768
  gains : Table Nat 768
  primed : Bool
  sceneChanges : Nat
  bufferProfile : Table (Fin 4) 4
  y1Above : List Nat
  y1Last : List Nat
  chromaEven : List (Nat × Nat)
deriving DecidableEq, Repr

/-! ## View Unit (03) -/

inductive Rotation where
  | deg0
  | deg180
deriving DecidableEq, Repr

/-- A view (R40). -/
structure View where
  z : Nat
  cx : Nat
  cy : Nat
  rotation : Rotation
deriving DecidableEq, Repr

/-- A ramp record (R40). -/
structure Ramp where
  running : Bool
  target : Nat
  step : Nat
  issuer : Option Link
  tag : Byte
deriving DecidableEq, Repr

/-- A pending-change record (R40). -/
structure PendingChange where
  dx : Int
  dy : Int
  rotation : Option Rotation
deriving DecidableEq, Repr

/-- One pane's part of the READ_VIEW snapshot (R54). -/
structure PaneSnapshot where
  view : View
  x0 : Nat
  y0 : Nat
  w : Nat
  h : Nat
  running : Bool
  target : Nat
  step : Nat
deriving DecidableEq, Repr

/-- The READ_VIEW snapshot (R54). -/
structure Snapshot where
  frameNumber : Nat
  panes : PerPane PaneSnapshot
deriving DecidableEq, Repr

/-- The View Unit (R40). -/
structure ViewUnit where
  views : PerPane View
  ramps : PerPane Ramp
  pending : PerPane PendingChange
  snapshot : Snapshot
deriving DecidableEq, Repr

/-! ## Compositor (04) -/

inductive Layout where
  | single
  | split
deriving DecidableEq, Repr

/-- The source of a pane (R58). SLOT names a lesson slot, 1 to 23. -/
inductive PaneSource where
  | live
  | freeze
  | slot (n : Fin 24)
  | blank
deriving DecidableEq, Repr

/-- Layout and sources of a presentation set (R58). -/
structure PresentationSet where
  layout : Layout
  sources : PerPane PaneSource
deriving DecidableEq, Repr

/-- The content of an open staged set (R62): layout, sources, views, and a mark on each of the five. -/
structure StagedSet where
  layout : Layout
  sources : PerPane PaneSource
  views : PerPane View
  layoutMark : Bool
  sourceMarks : PerPane Bool
  viewMarks : PerPane Bool
deriving DecidableEq, Repr

/-- The pending apply (R65). -/
structure PendingApply where
  link : Link
  tag : Byte
  staged : StagedSet
deriving DecidableEq, Repr

/-- A freeze record (R68). -/
inductive FreezeRecord where
  | none
  | copying (link : Link) (tag : Byte)
  | ready (link : Link) (tag : Byte)
deriving DecidableEq, Repr

/-- The display of a pane as settled at an output frame start (R78). -/
inductive Shown where
  | picture
  | held
  | heldBlank
  | overrideBlank
  | noFrame
  | notShown
  | blankSource
deriving DecidableEq, Repr

/-- A ring buffer, a slot, or neither (R78, R182). -/
inductive PageRef where
  | ring (b : Fin 4)
  | slot (n : Fin 24)
  | none
deriving DecidableEq, Repr

/-- A pane's display record (R71 to R74) and what it shows (R78). -/
structure PaneDisplay where
  currentPin : Option (Fin 4)
  held : Bool
  /-- Whether the held pane has a held pin on the held buffer (R74, case 3 may give none). -/
  heldPin : Bool
  slotPin : Option (Fin 24)
  shown : Shown
  page : PageRef
deriving DecidableEq, Repr

/-- The Compositor (R58 to R78). -/
structure Compositor where
  active : PresentationSet
  staged : PerLink (Option StagedSet)
  pendingApply : Option PendingApply
  freeze : PerPane FreezeRecord
  /-- The unfreeze marks, each with the link whose UNFREEZE set it (R70). -/
  unfreeze : PerPane (Option Link)
  display : PerPane PaneDisplay
  heldBuffer : Option (Fin 4)
  frameCounter : Nat
  underruns : Nat
  /-- An output frame has been started since the last reset (R60). -/
  scanning : Bool
  /-- The lines of this output frame that were replaced (R77). -/
  lateLines : List Nat
deriving DecidableEq, Repr

/-! ## Guard Unit (05) -/

inductive Source where
  | none
  | armFold
  | lampSense
  | intakeLoss
deriving DecidableEq, Repr

inductive PaneAction where
  | none
  | hold
  | blank
deriving DecidableEq, Repr

inductive PaneMask where
  | pane0
  | pane1
  | both
deriving DecidableEq, Repr

inductive LampAction where
  | leave
  | forceOff
deriving DecidableEq, Repr

/-- The seven fields of an override record (R85). -/
structure OverrideRecord where
  enabled : Bool
  source : Source
  matchValue : Bool
  latching : Bool
  paneAction : PaneAction
  mask : PaneMask
  lampAction : LampAction
deriving DecidableEq, Repr

/-- An override (R85): record, state and activation count. -/
structure Override where
  record : OverrideRecord
  active : Bool
  count : Nat
deriving DecidableEq, Repr

/-- A debounced input (R79). The run is none while stopped, and otherwise the milliseconds it was loaded with. -/
structure DebouncedInput where
  raw : Bool
  debounced : Bool
  run : Option Nat
deriving DecidableEq, Repr

/-- The Guard Unit (R79 to R93), with its two input pins and LAMP_EN. -/
structure Guard where
  armPin : Bool
  /-- Voltage of the LAMP_SENSE pin in microvolts (R81, log 18). -/
  lampPin : Nat
  arm : DebouncedInput
  lamp : DebouncedInput
  threshold : Nat
  debounceTime : Nat
  lossLevel : Bool
  commanded : Bool
  overrides : Table Override 3
  lampEn : Bool
deriving DecidableEq, Repr

/-! ## Page Store and Page Mover (06) -/

inductive SlotState where
  | empty
  | filling
  | held
  | saving
  | saved
  | damaged
deriving DecidableEq, Repr

inductive Origin where
  | capture
  | freeze
  | recall
deriving DecidableEq, Repr

/-- The content fields of a slot record (R94). -/
structure SlotInfo where
  origin : Origin
  time : Nat
  profile : Fin 4
  view : View
deriving DecidableEq, Repr

/-- An archive link (R94, R108). -/
structure ArchiveLink where
  extent : Fin 225
  seq : Nat
deriving DecidableEq, Repr

/-- A slot record (R94) with the slot's content in the export order (R117). -/
structure Slot where
  state : SlotState
  pins : Nat
  info : Option SlotInfo
  link : Option ArchiveLink
  content : Mem
deriving DecidableEq, Repr

inductive IntervalMode where
  | repeating
  | once
deriving DecidableEq, Repr

/-- The interval channel (R114). -/
structure Interval where
  running : Bool
  period : Nat
  mode : IntervalMode
  remaining : Nat
  owner : Option Link
deriving DecidableEq, Repr

/-- The Page Store (R94 to R119). -/
structure PageStore where
  slots : Table Slot 24
  lesson : List (Fin 24)
  clock : Nat
  interval : Interval
deriving DecidableEq, Repr

inductive CopyKind where
  | capture
  | freeze
deriving DecidableEq, Repr

/-- The source of a copy (R98): a ring buffer, or slot 0. -/
inductive CopySource where
  | ring (b : Fin 4)
  | slot0
deriving DecidableEq, Repr

/-- What asked for a copy (R98): a command with its link and tag, or the interval channel. -/
inductive CopyCause where
  | command (link : Link) (tag : Byte)
  | interval
deriving DecidableEq, Repr

/-- A Page Mover request (R98). -/
structure CopyRequest where
  kind : CopyKind
  source : CopySource
  target : Fin 24
  cause : CopyCause
deriving DecidableEq, Repr

/-- The Page Mover (R98): its queue, and whether the head is being copied. -/
structure Mover where
  queue : List CopyRequest
  running : Bool
deriving DecidableEq, Repr

/-! ## Lesson Archive (07) and Flash Port (08) -/

inductive EntryState where
  | free
  | writing
  | valid
  | stale
  | retired
deriving DecidableEq, Repr

/-- The header fields of a directory entry (R122). -/
structure Header where
  seq : Nat
  lesson : Nat
  position : Nat
  time : Nat
  profile : Fin 4
  view : View
deriving DecidableEq, Repr

/-- A directory entry (R122). -/
structure Entry where
  state : EntryState
  header : Option Header
  readers : Nat
  progress : Nat
  failures : Nat
deriving DecidableEq, Repr

inductive MountState where
  | unmounted
  | mounting
  | mounted
deriving DecidableEq, Repr

inductive MountCause where
  | powerOn
  | softReset
  | remount
deriving DecidableEq, Repr

/-- Where the mount scan stands (R124, R125, R127): the extent, which of its four pages so far were uncorrectable, and
whether the page being read is read for the second time. -/
structure Scan where
  extent : Nat
  bad : List Bool
  again : Bool
deriving DecidableEq, Repr

/-- The Lesson Archive (R122). -/
structure Archive where
  entries : Table Entry 225
  highest : Nat
  mount : MountState
  cause : MountCause
  scan : Scan
deriving DecidableEq, Repr

inductive JobState where
  | queued
  | running
  | paused
deriving DecidableEq, Repr

/-- A PROGRAM job (R144). `held` is the extent and the sequence number taken at its start (R130, R131). -/
structure ProgramJob where
  slot : Fin 24
  lesson : Nat
  position : Nat
  link : Link
  tag : Byte
  state : JobState
  progress : Nat
  held : Option (Fin 225 × Nat)
  /-- Blank-check reads finished on the extent held (R131). -/
  checked : Nat
  /-- One of them was not blank (R131). -/
  notBlank : Bool
  /-- Marked to end when its command finishes (R135, R153). -/
  cancelled : Bool
deriving DecidableEq, Repr

/-- A READ job (R144). -/
structure ReadJob where
  slot : Fin 24
  extent : Fin 225
  seq : Nat
  link : Link
  tag : Byte
  state : JobState
  progress : Nat
deriving DecidableEq, Repr

/-- A job of the Flash Port (R144). A WITHDRAW or RETIRE job has only its extent and whether it is running. -/
inductive Job where
  | program (j : ProgramJob)
  | read (j : ReadJob)
  | withdraw (extent : Fin 225) (running : Bool)
  | retire (extent : Fin 225) (running : Bool)
deriving DecidableEq, Repr

inductive FlashKind where
  | pageRead
  | pageProgram
  | blockErase
  | suspend
  | resume
  | reset
deriving DecidableEq, Repr

/-- The flash command in flight (R143): kind, address (block and page, none for a flash reset), deadline in ms. -/
structure FlashCommand where
  kind : FlashKind
  address : Option (Nat × Nat)
  deadline : Nat
deriving DecidableEq, Repr

inductive ResetCause where
  | expiry
  | softReset
  | powerOn
  | remount
deriving DecidableEq, Repr

/-- The Flash Port (08). An extent and block pair names block 0 to 144 of the extent. -/
structure FlashPort where
  queue : List Job
  command : Option FlashCommand
  suspended : Option (Fin 225 × Nat)
  reclaim : Option (Fin 225 × Nat)
  resetCause : Option ResetCause
  offline : Bool
deriving DecidableEq, Repr

/-! ## Fault Recorder (10) -/

inductive FaultKind where
  | dramFailure
  | dramUncorrectable
  | dramCorrected
  | intakeLoss
  | intakeTruncated
  | outputUnderrun
  | overrideTriggered
  | flashTimeout
  | flashProgramFail
  | flashEraseFail
  | flashOffline
  | archiveReadUncorrectable
  | archiveHeaderBad
  | malformedFrame
  | linkOverrun
deriving DecidableEq, Repr

inductive FaultClass where
  | notice
  | error
  | fatal
deriving DecidableEq, Repr

inductive Steering where
  | none
  | panel
  | bridge
  | both
deriving DecidableEq, Repr

inductive FaultOrigin where
  | panel
  | bridge
  | internal
deriving DecidableEq, Repr

/-- The detail of a fault (R173, R174). -/
inductive FaultDetail where
  | ring (b : Fin 4)
  | slot (n : Fin 24)
  | override (i : Fin 3)
  | none
deriving DecidableEq, Repr

/-- The header log of a frame fault (R174): the fields received, and up to four payload bytes. -/
structure HeaderLog where
  tag : Option Byte
  code : Option Byte
  length : Option Byte
  payload : List Byte
deriving DecidableEq, Repr

/-- A first-error record (R174). -/
structure FaultRecord where
  kind : FaultKind
  origin : FaultOrigin
  detail : FaultDetail
  log : Option HeaderLog
  frameNumber : Nat
  clock : Nat
deriving DecidableEq, Repr

/-- The policy of a fault kind (R173). -/
structure FaultPolicy where
  masked : Bool
  severity : FaultClass
deriving DecidableEq, Repr

/-- The steering of the three classes (R173). -/
structure SteeringTable where
  notice : Steering
  error : Steering
  fatal : Steering
deriving DecidableEq, Repr

/-- The Fault Recorder (R173 to R179). Tables are numbered by fault kind (R183). -/
structure Faults where
  policy : Table FaultPolicy 15
  steering : SteeringTable
  error : Option FaultRecord
  errorNext : Bool
  fatal : Option FaultRecord
  fatalNext : Bool
  notices : Table Bool 15
deriving DecidableEq, Repr

/-! ## Records on the links (09, 11) -/

/-- The result codes, in the order of the table of 09 (R183). -/
inductive Result where
  | ok | accepted | clamped | unknownCommand | badLength | badArgument | nothingStaged | slotInUse | slotBusy | slotEmpty
  | slotOccupied | noFreeSlot | moverBusy | lessonFull | lessonNotEmpty | alreadyInLesson | alreadyPresent | notFound
  | entryInUse | archiveFull | queueFull | jobsPending | mounting | flashOffline | halted | exportActive | overrideActive
  | stillMatching
deriving DecidableEq, Repr

inductive PresentationCause where
  | apply
  | freeze
  | unfreeze
deriving DecidableEq, Repr

inductive FrozenOutcome where
  | switched
  | blanked
  | failed
  | withdrawn
deriving DecidableEq, Repr

inductive OverrideOffCause where
  | source
  | cleared
deriving DecidableEq, Repr

inductive SkipReason where
  | halted
  | override
  | lessonFull
  | noSlot
  | moverBusy
deriving DecidableEq, Repr

inductive StopCause where
  | command
  | once
deriving DecidableEq, Repr

inductive SaveFailure where
  | programFail
  | timeout
  | damaged
  | archiveFull
  | cancelled
  | offline
deriving DecidableEq, Repr

inductive RecallFailure where
  | uncorrectable
  | timeout
  | offline
deriving DecidableEq, Repr

inductive MountOutcome where
  | complete
  | flashOffline
deriving DecidableEq, Repr

inductive FaultMarker where
  | first
  | next
  | notice
deriving DecidableEq, Repr

/-- The events (R165), each with the fields its rule lists. -/
inductive Event where
  /-- R28 -/
  | sceneChange (frame moved counter : Nat)
  /-- R50 -/
  | rampDone (pane : Pane) (z : Nat) (tag : Byte) (frame : Nat)
  /-- R66 -/
  | applied (tag : Byte) (frame : Nat) (blanked0 blanked1 : Bool)
  /-- R65 -/
  | superseded (tag : Byte) (newer : Link)
  /-- R66, R69, R70 -/
  | presentationChanged (cause : PresentationCause) (frame : Nat) (issuer : Link) (layout : Layout)
      (source0 source1 : PaneSource) (blanked0 blanked1 : Bool)
  /-- R69 -/
  | frozen (pane : Pane) (outcome : FrozenOutcome) (frame : Nat) (tag : Byte)
  /-- R86 -/
  | overrideOn (override : Fin 3) (source : Source) (level : Bool) (action : PaneAction) (mask : PaneMask)
      (lamp : LampAction) (frame : Nat)
  /-- R87, R88 -/
  | overrideOff (override : Fin 3) (cause : OverrideOffCause) (level : Bool) (frame : Nat)
  /-- R103, R115 -/
  | captureDone (tag : Byte) (slot : Fin 24) (done : Bool) (interval : Bool)
  /-- R115 -/
  | captureSkipped (reason : SkipReason) (clock : Nat) (mode : IntervalMode)
  /-- R114, R115 -/
  | intervalStopped (cause : StopCause)
  /-- R133 -/
  | saveDone (tag : Byte) (slot : Fin 24) (lesson position : Nat) (extent : Fin 225) (seq : Nat)
  /-- R134 -/
  | saveFailed (tag : Byte) (slot : Fin 24) (lesson position : Nat) (reason : SaveFailure)
  /-- R137 -/
  | recallDone (tag : Byte) (slot : Fin 24) (extent : Fin 225) (seq lesson position : Nat) (superseded : Bool)
  /-- R137 -/
  | recallFailed (tag : Byte) (slot : Fin 24) (extent : Fin 225) (reason : RecallFailure)
  /-- R117 -/
  | exportDone (slot : Fin 24)
  /-- R118 -/
  | exportStalled (slot : Fin 24) (offset : Nat)
  /-- R126 -/
  | mountDone (cause : MountCause) (outcome : MountOutcome) (free writing valid stale retired duplicates unlinked : Nat)
  /-- R171 -/
  | resetNotice (issuer : Link)
  /-- R175 -/
  | fault (cls : FaultClass) (kind : FaultKind) (origin : FaultOrigin) (detail : FaultDetail) (frame : Nat)
      (marker : FaultMarker)
deriving DecidableEq, Repr

/-- A record of a response queue (R163, R165, R181). -/
inductive Record where
  | response (tag code : Byte) (result : Result) (payload : List Byte)
  | event (e : Event)
deriving DecidableEq, Repr

/-- A command frame (R161). -/
structure Frame where
  tag : Byte
  code : Byte
  payload : List Byte
deriving DecidableEq, Repr

/-- An active export (R116). The stall timer holds the milliseconds it was loaded with. -/
structure ExportRecord where
  slot : Fin 24
  offset : Nat
  stall : Nat
deriving DecidableEq, Repr

/-- The kinds of a transaction (R159, R180): the four known ones, and any other. -/
inductive TransactionKind where
  | command
  | fetch
  | bulk
  | linkReset
  | unknown
deriving DecidableEq, Repr

/-- A transaction in progress (R159, R166, R171): what the link keeps of it from the fall of chip-select on. -/
structure Transaction where
  /-- Formed when chip-select fell (R160). -/
  status : Byte
  /-- None until the kind byte has been clocked in whole (R159). -/
  kind : Option TransactionKind
  /-- The record that a FETCH returns, taken at its kind byte (R164); none for the empty marker. -/
  record : Option Record
  /-- The bytes returned so far after the status byte. -/
  sent : List Byte
  /-- An event has been dropped on the link since the status byte was formed (R166). -/
  dropped : Bool
  /-- A soft reset has been taken since chip-select fell (R171). -/
  cut : Bool
deriving DecidableEq, Repr

/-- The state of one link (09). `mask` has the bit order of R182; `miso` holds the bytes the part returned in the last
transaction on the link (R159). -/
structure LinkState where
  commands : List Frame
  responses : List Record
  watermark : Nat
  mask : BitVec 12
  eventsLost : Bool
  exporting : Option ExportRecord
  /-- The transaction in progress; none between transactions (R159). -/
  transaction : Option Transaction
  miso : List Byte
deriving DecidableEq, Repr

/-! ## The whole state -/

/-- The state of the part. -/
structure State where
  /-- STARTING: from power-on reset until the DRAM check ends (R172). -/
  starting : Bool
  intake : Intake
  ring : Ring
  cond : Conditioner
  view : ViewUnit
  comp : Compositor
  guard : Guard
  store : PageStore
  mover : Mover
  arch : Archive
  port : FlashPort
  /-- The lesson flash on the flash port, by byte address (R120, log 21). -/
  flash : Mem
  links : PerLink LinkState
  faults : Faults
  /-- The MODEL's own: how many free values have been drawn (Config, log 40). -/
  freeCount : Nat
  /-- The commands that wait, first in, first out. -/
  pending : List Instr
deriving DecidableEq, Repr

/-- Why the model stops. -/
inductive Fault where
  /-- Raised by CAMERA_FRAME_START when no ring buffer is FREE and every COMPLETE one is pinned. R12 says this cannot
  occur. Safe (log 26). -/
  | ringHasNoBuffer
deriving DecidableEq, Repr

/-- Why the model refuses a command. -/
inductive Refusal where
  /-- Raised by exec for a command that has no meaning yet; no arm does. Safe. -/
  | notModelled (mnemonic : String)
deriving DecidableEq, Repr

/-- What one step of the part answers. -/
abbrev StepOutcome := Host.Outcome State Fault Refusal

/-! ## Values right after power-on reset -/

/-- R9. -/
def Intake.reset : Intake :=
  { state := .stopped, lineCount := 0, target := none, frameCounter := 0, truncated := 0, watch := none, lineGap := none,
    loss := false, lossEnded := false, lineOpen := false }

/-- R16; content by log 20. -/
def RingBuffer.reset : RingBuffer := { state := .free, frameNumber := 0, pins := 0, damaged := false, content := [] }

/-- R16. -/
def Ring.reset : Ring := { buffers := .replicate 4 RingBuffer.reset, order := [] }

/-- The four profiles of R18. -/
def Profile.defaults : Table Profile 4 :=
  ⟨[⟨232, 640, 48, 4, 4, 24, true, 40, 16⟩, ⟨240, 256, 48, 4, 0, 8, false, 0, 16⟩, ⟨224, 1024, 32, 2, 6, 32, true, 64, 8⟩,
    ⟨255, 256, 0, 8, 0, 0, false, 0, 16⟩], rfl⟩

/-- R18, R23, R26; the line stores and the histograms by log 24. -/
def Conditioner.reset : Conditioner :=
  { profiles := Profile.defaults, live := 0, latched := Profile.defaults.get 0, latchedNumber := 0,
    histograms := .replicate 768 (.replicate 16 0), map := .replicate 768 1020, lastRaw := .replicate 768 255,
    gains := .replicate 768 256, primed := false, sceneChanges := 0, bufferProfile := .replicate 4 0, y1Above := [],
    y1Last := [], chromaEven := [] }

/-- The view of R55. -/
def View.reset : View := ⟨64, 2048, 1536, .deg0⟩

/-- R55: the window at Z 64 is the whole frame (R41). -/
def PaneSnapshot.reset : PaneSnapshot :=
  { view := View.reset, x0 := 0, y0 := 0, w := 4096, h := 3072, running := false, target := 64, step := 1 }

/-- R55. -/
def ViewUnit.reset : ViewUnit :=
  { views := ⟨View.reset, View.reset⟩, ramps := ⟨⟨false, 64, 1, none, 0#8⟩, ⟨false, 64, 1, none, 0#8⟩⟩,
    pending := ⟨⟨0, 0, none⟩, ⟨0, 0, none⟩⟩, snapshot := ⟨0, ⟨PaneSnapshot.reset, PaneSnapshot.reset⟩⟩ }

/-- R59; the shown value by log 35. -/
def PaneDisplay.reset : PaneDisplay :=
  { currentPin := none, held := false, heldPin := false, slotPin := none, shown := .notShown, page := .none }

/-- R59. -/
def Compositor.reset : Compositor :=
  { active := ⟨.single, ⟨.live, .blank⟩⟩, staged := ⟨none, none⟩, pendingApply := none, freeze := ⟨.none, .none⟩,
    unfreeze := ⟨none, none⟩, display := ⟨PaneDisplay.reset, PaneDisplay.reset⟩, heldBuffer := none, frameCounter := 0,
    underruns := 0, scanning := false, lateLines := [] }

/-- The three records of R85. -/
def Override.defaults : Table Override 3 :=
  ⟨[⟨⟨true, .lampSense, true, true, .none, .both, .forceOff⟩, false, 0⟩,
    ⟨⟨true, .armFold, true, false, .hold, .both, .leave⟩, false, 0⟩,
    ⟨⟨false, .none, false, false, .none, .both, .leave⟩, false, 0⟩], rfl⟩

/-- The state table of 05 (R92); the pins by log 19. -/
def Guard.reset : Guard :=
  { armPin := false, lampPin := 0, arm := ⟨false, false, none⟩, lamp := ⟨false, false, none⟩, threshold := 200,
    debounceTime := 10, lossLevel := false, commanded := false, overrides := Override.defaults, lampEn := false }

/-- R119; content by log 20. -/
def Slot.reset : Slot := { state := .empty, pins := 0, info := none, link := none, content := [] }

/-- R115. -/
def Interval.reset : Interval := { running := false, period := 60, mode := .repeating, remaining := 0, owner := none }

/-- R97, R110, R115, R119. -/
def PageStore.reset : PageStore :=
  { slots := .replicate 24 Slot.reset, lesson := [], clock := 0, interval := Interval.reset }

/-- R98. -/
def Mover.reset : Mover := { queue := [], running := false }

/-- R122. -/
def Entry.reset : Entry := { state := .free, header := none, readers := 0, progress := 0, failures := 0 }

/-- The start of a scan (R124). -/
def Scan.start : Scan := { extent := 0, bad := [], again := false }

/-- R122; the cause and the scan by log 24. -/
def Archive.reset : Archive :=
  { entries := .replicate 225 Entry.reset, highest := 0, mount := .unmounted, cause := .powerOn, scan := Scan.start }

/-- R157. -/
def FlashPort.reset : FlashPort :=
  { queue := [], command := none, suspended := none, reclaim := none, resetCause := none, offline := false }

/-- R172; no transaction and no MISO bytes by log 24. -/
def LinkState.reset : LinkState :=
  { commands := [], responses := [], watermark := 1, mask := 0xFFF#12, eventsLost := false, exporting := none,
    transaction := none, miso := [] }

/-- The default severities of R173, by fault kind. -/
def FaultPolicy.defaults : Table FaultPolicy 15 :=
  ⟨[⟨false, .fatal⟩, ⟨false, .error⟩, ⟨false, .notice⟩, ⟨false, .error⟩, ⟨false, .notice⟩, ⟨false, .notice⟩,
    ⟨false, .notice⟩, ⟨false, .error⟩, ⟨false, .error⟩, ⟨false, .error⟩, ⟨false, .error⟩, ⟨false, .error⟩,
    ⟨false, .notice⟩, ⟨false, .error⟩, ⟨false, .error⟩], rfl⟩

/-- R173, R179. -/
def Faults.reset : Faults :=
  { policy := FaultPolicy.defaults, steering := ⟨.none, .both, .both⟩, error := none, errorNext := false, fatal := none,
    fatalNext := false, notices := .replicate 15 false }

/-- The part right after power-on reset: STARTING (R172), every block as its chapter gives. -/
def State.reset : State :=
  { starting := true, intake := Intake.reset, ring := Ring.reset, cond := Conditioner.reset, view := ViewUnit.reset,
    comp := Compositor.reset, guard := Guard.reset, store := PageStore.reset, mover := Mover.reset, arch := Archive.reset,
    port := FlashPort.reset, flash := [], links := ⟨LinkState.reset, LinkState.reset⟩, faults := Faults.reset,
    freeCount := 0, pending := [] }

/-! ## Replacing one block's record -/

def State.withStarting (s : State) (v : Bool) : State := { s with starting := v }
def State.withIntake (s : State) (v : Intake) : State := { s with intake := v }
def State.withRing (s : State) (v : Ring) : State := { s with ring := v }
def State.withCond (s : State) (v : Conditioner) : State := { s with cond := v }
def State.withView (s : State) (v : ViewUnit) : State := { s with view := v }
def State.withComp (s : State) (v : Compositor) : State := { s with comp := v }
def State.withGuard (s : State) (v : Guard) : State := { s with guard := v }
def State.withStore (s : State) (v : PageStore) : State := { s with store := v }
def State.withMover (s : State) (v : Mover) : State := { s with mover := v }
def State.withArch (s : State) (v : Archive) : State := { s with arch := v }
def State.withPort (s : State) (v : FlashPort) : State := { s with port := v }
def State.withFlash (s : State) (v : Mem) : State := { s with flash := v }
def State.withLinks (s : State) (v : PerLink LinkState) : State := { s with links := v }
def State.withFaults (s : State) (v : Faults) : State := { s with faults := v }
def State.withFreeCount (s : State) (v : Nat) : State := { s with freeCount := v }
def State.withPending (s : State) (v : List Instr) : State := { s with pending := v }

end Sys2Proof.Machine
end

