-- ==== Sys2Proof/Machine/Arith.lean ====
section
/-!
DEFINITION. The manual's arithmetic (00_scope.md, Arithmetic): clamps, floor and trunc, saturating and wrapping counts.
-/

namespace Sys2Proof.Machine

/-- clamp(v, a, b) (00_scope.md). -/
def clampNat (v a b : Nat) : Nat := if v < a then a else if b < v then b else v

/-- clamp(v, a, b) on signed values. -/
def clampInt (v a b : Int) : Int := if v < a then a else if b < v then b else v

/-- v / d rounded toward minus infinity. -/
def floorDiv (v d : Int) : Int := v.fdiv d

/-- v / d rounded toward zero. -/
def truncDiv (v d : Int) : Int := v.tdiv d

/-- One more, stopping at `top` (saturating counts: R6, R28, R77, R86, R122). -/
def satSucc (top v : Nat) : Nat := if v < top then v + 1 else v

/-- One more, from 4,294,967,295 to 0 (R5, R60, R97). -/
def wrapSucc (v : Nat) : Nat := if v + 1 < 4294967296 then v + 1 else 0

/-- Whether `clampNat` changes the value (the answer is then CLAMPED). -/
def outside (v a b : Nat) : Bool := v < a || b < v

end Sys2Proof.Machine
end

