-- ==== Sys2Proof/Machine/Mem.lean ====
section
/-!
DEFINITION. Addressed bytes as lists of cells in one canonical form: addresses strictly rising, no cell equal to what an
unlisted byte reads as (`blank`: 0 in DRAM, 0xFF on the flash). Every change is a run of bytes put over a range.
-/

namespace Sys2Proof.Machine

/-- The canonical form. -/
abbrev Mem.Wf (blank : Byte) (m : Mem) : Prop :=
  m.Pairwise (fun a b => a.1 < b.1) ∧ ∀ c ∈ m, c.2 ≠ blank

/-- The byte at an address. -/
def Mem.read (blank : Byte) (m : Mem) (a : Nat) : Byte := (m.lookup a).getD blank

/-- The `n` bytes from an address on. -/
def Mem.readRun (blank : Byte) (m : Mem) (a n : Nat) : List Byte := (List.range n).map fun i => m.read blank (a + i)

/-- The cells of a run of bytes from address `a` on. -/
def Mem.cells (blank : Byte) : Nat → List Byte → Mem
  | _, [] => []
  | a, v :: vs => if v = blank then Mem.cells blank (a + 1) vs else (a, v) :: Mem.cells blank (a + 1) vs

/-- The cells below an address. -/
def Mem.below (m : Mem) (a : Nat) : Mem := m.filter fun c => decide (c.1 < a)

/-- The cells at or above an address. -/
def Mem.above (m : Mem) (a : Nat) : Mem := m.filter fun c => decide (a ≤ c.1)

/-- The memory with a run of bytes written from address `a` on. -/
def Mem.writeRun (blank : Byte) (m : Mem) (a : Nat) (vs : List Byte) : Mem :=
  m.below a ++ (Mem.cells blank a vs ++ m.above (a + vs.length))

/-- The memory with the `n` bytes from address `a` on blank. -/
def Mem.erase (m : Mem) (a n : Nat) : Mem := m.below a ++ m.above (a + n)

/-- Whether the `n` bytes from address `a` on are all blank: no other cell lies there. -/
def Mem.isBlank (blank : Byte) (m : Mem) (a n : Nat) : Bool :=
  m.all fun c => decide (c.1 < a ∨ a + n ≤ c.1 ∨ c.2 = blank)

end Sys2Proof.Machine
end

