-- ==== Sys2Proof/Machine/Operands.lean ====
section
/-!
DEFINITION. The byte forms of the links: how a payload's fields are read and written (R182), the code values (R183), and
the bytes of a record (R181). All multi-byte fields are little-endian (00_scope.md).
-/

namespace Sys2Proof.Machine

/-! ## Reading and writing numbers (R182) -/

/-- A one-byte number. -/
def num1 (n : Nat) : List Byte := [BitVec.ofNat 8 n]

/-- A two-byte number, low byte first. -/
def num2 (n : Nat) : List Byte := [BitVec.ofNat 8 n, BitVec.ofNat 8 (n / 256)]

/-- A four-byte number, low byte first. -/
def num4 (n : Nat) : List Byte :=
  [BitVec.ofNat 8 n, BitVec.ofNat 8 (n / 256), BitVec.ofNat 8 (n / 65536), BitVec.ofNat 8 (n / 16777216)]

/-- A flag byte. -/
def flag (b : Bool) : List Byte := [if b then 1#8 else 0#8]

/-- The number in two bytes, low byte first. -/
def read2 (b0 b1 : Byte) : Nat := b0.toNat + 256 * b1.toNat

/-- The number in four bytes, low byte first. -/
def read4 (b0 b1 b2 b3 : Byte) : Nat := b0.toNat + 256 * b1.toNat + 65536 * b2.toNat + 16777216 * b3.toNat

/-- The two's complement number in two bytes (pan offsets). -/
def readSigned2 (b0 b1 : Byte) : Int :=
  let n := read2 b0 b1
  if n < 32768 then (n : Int) else (n : Int) - 65536

/-- An optional field or group of `size` bytes: a presence byte, then the bytes, or 0xFF for each when absent. -/
def optional (size : Nat) : Option (List Byte) → List Byte
  | some bytes => 1#8 :: bytes
  | none => 0#8 :: List.replicate size 0xFF#8

/-- A flag operand: 0 or 1, and nothing else. -/
def readFlag (b : Byte) : Option Bool := if b = 0#8 then some false else if b = 1#8 then some true else none

/-! ## Enumerations, numbered from 0 in the order their rule lists them (R182) -/

def linkCode : Link → Nat
  | .panel => 0
  | .bridge => 1

def IntakeState.code : IntakeState → Nat
  | .stopped => 0
  | .between => 1
  | .inFrame => 2

def BufferState.code : BufferState → Nat
  | .free => 0
  | .filling => 1
  | .complete => 2

def Rotation.code : Rotation → Nat
  | .deg0 => 0
  | .deg180 => 1

def Layout.code : Layout → Nat
  | .single => 0
  | .split => 1

def Pane.code : Pane → Nat
  | .zero => 0
  | .one => 1

def Shown.code : Shown → Nat
  | .picture => 0
  | .held => 1
  | .heldBlank => 2
  | .overrideBlank => 3
  | .noFrame => 4
  | .notShown => 5
  | .blankSource => 6

def FreezeRecord.code : FreezeRecord → Nat
  | .none => 0
  | .copying _ _ => 1
  | .ready _ _ => 2

def Source.code : Source → Nat
  | .none => 0
  | .armFold => 1
  | .lampSense => 2
  | .intakeLoss => 3

def PaneAction.code : PaneAction → Nat
  | .none => 0
  | .hold => 1
  | .blank => 2

def PaneMask.code : PaneMask → Nat
  | .pane0 => 0
  | .pane1 => 1
  | .both => 2

def LampAction.code : LampAction → Nat
  | .leave => 0
  | .forceOff => 1

def SlotState.code : SlotState → Nat
  | .empty => 0
  | .filling => 1
  | .held => 2
  | .saving => 3
  | .saved => 4
  | .damaged => 5

def Origin.code : Origin → Nat
  | .capture => 0
  | .freeze => 1
  | .recall => 2

def IntervalMode.code : IntervalMode → Nat
  | .repeating => 0
  | .once => 1

def CopyKind.code : CopyKind → Nat
  | .capture => 0
  | .freeze => 1

def CopyCause.code : CopyCause → Nat
  | .command _ _ => 0
  | .interval => 1

def EntryState.code : EntryState → Nat
  | .free => 0
  | .writing => 1
  | .valid => 2
  | .stale => 3
  | .retired => 4

def MountState.code : MountState → Nat
  | .unmounted => 0
  | .mounting => 1
  | .mounted => 2

def MountCause.code : MountCause → Nat
  | .powerOn => 0
  | .softReset => 1
  | .remount => 2

def JobState.code : JobState → Nat
  | .queued => 0
  | .running => 1
  | .paused => 2

def FlashKind.code : FlashKind → Nat
  | .pageRead => 0
  | .pageProgram => 1
  | .blockErase => 2
  | .suspend => 3
  | .resume => 4
  | .reset => 5

/-- Fault kinds are numbered 0 to 14 in the order of R173 (R183). -/
def FaultKind.index : FaultKind → Fin 15
  | .dramFailure => 0
  | .dramUncorrectable => 1
  | .dramCorrected => 2
  | .intakeLoss => 3
  | .intakeTruncated => 4
  | .outputUnderrun => 5
  | .overrideTriggered => 6
  | .flashTimeout => 7
  | .flashProgramFail => 8
  | .flashEraseFail => 9
  | .flashOffline => 10
  | .archiveReadUncorrectable => 11
  | .archiveHeaderBad => 12
  | .malformedFrame => 13
  | .linkOverrun => 14

/-- Classes are NOTICE 0, ERROR 1, FATAL 2 (R183). -/
def FaultClass.code : FaultClass → Nat
  | .notice => 0
  | .error => 1
  | .fatal => 2

def Steering.code : Steering → Nat
  | .none => 0
  | .panel => 1
  | .bridge => 2
  | .both => 3

def FaultOrigin.code : FaultOrigin → Nat
  | .panel => 0
  | .bridge => 1
  | .internal => 2

def PresentationCause.code : PresentationCause → Nat
  | .apply => 0
  | .freeze => 1
  | .unfreeze => 2

/-- Numbered in the order of the Freeze procedure of 04 (log 12). -/
def FrozenOutcome.code : FrozenOutcome → Nat
  | .switched => 0
  | .blanked => 1
  | .failed => 2
  | .withdrawn => 3

def OverrideOffCause.code : OverrideOffCause → Nat
  | .source => 0
  | .cleared => 1

def SkipReason.code : SkipReason → Nat
  | .halted => 0
  | .override => 1
  | .lessonFull => 2
  | .noSlot => 3
  | .moverBusy => 4

def StopCause.code : StopCause → Nat
  | .command => 0
  | .once => 1

def SaveFailure.code : SaveFailure → Nat
  | .programFail => 0
  | .timeout => 1
  | .damaged => 2
  | .archiveFull => 3
  | .cancelled => 4
  | .offline => 5

def RecallFailure.code : RecallFailure → Nat
  | .uncorrectable => 0
  | .timeout => 1
  | .offline => 2

def MountOutcome.code : MountOutcome → Nat
  | .complete => 0
  | .flashOffline => 1

def FaultMarker.code : FaultMarker → Nat
  | .first => 0
  | .next => 1
  | .notice => 2

/-- Result codes are 0x00 to 0x1B in the order of the table of 09 (R183). -/
def Result.code : Result → Nat
  | .ok => 0x00
  | .accepted => 0x01
  | .clamped => 0x02
  | .unknownCommand => 0x03
  | .badLength => 0x04
  | .badArgument => 0x05
  | .nothingStaged => 0x06
  | .slotInUse => 0x07
  | .slotBusy => 0x08
  | .slotEmpty => 0x09
  | .slotOccupied => 0x0A
  | .noFreeSlot => 0x0B
  | .moverBusy => 0x0C
  | .lessonFull => 0x0D
  | .lessonNotEmpty => 0x0E
  | .alreadyInLesson => 0x0F
  | .alreadyPresent => 0x10
  | .notFound => 0x11
  | .entryInUse => 0x12
  | .archiveFull => 0x13
  | .queueFull => 0x14
  | .jobsPending => 0x15
  | .mounting => 0x16
  | .flashOffline => 0x17
  | .halted => 0x18
  | .exportActive => 0x19
  | .overrideActive => 0x1A
  | .stillMatching => 0x1B

/-! ## Reading enumerations from a command's payload -/

def readPane (b : Byte) : Option Pane := if b = 0#8 then some .zero else if b = 1#8 then some .one else none

def readRotation (b : Byte) : Option Rotation := if b = 0#8 then some .deg0 else if b = 1#8 then some .deg180 else none

def readLayout (b : Byte) : Option Layout := if b = 0#8 then some .single else if b = 1#8 then some .split else none

/-- A pane source: kind byte, then slot number, read only for SLOT and then 1 to 23 (R63, R182). -/
def readSource (kind number : Byte) : Option PaneSource :=
  if kind = 0#8 then some .live
  else if kind = 1#8 then some .freeze
  else if kind = 2#8 then
    if h : number.toNat < 24 then if number = 0#8 then none else some (.slot ⟨number.toNat, h⟩) else none
  else if kind = 3#8 then some .blank
  else none

/-- A number below `n`. -/
def readBelow (n : Nat) (v : Nat) : Option (Fin n) := if h : v < n then some ⟨v, h⟩ else none

/-- A lesson slot, 1 to 23. -/
def readLessonSlot (b : Byte) : Option (Fin 24) := if b = 0#8 then none else readBelow 24 b.toNat

def readOverrideSource (b : Byte) : Option Source :=
  if b = 0#8 then some .none else if b = 1#8 then some .armFold else if b = 2#8 then some .lampSense
  else if b = 3#8 then some .intakeLoss else none

def readPaneAction (b : Byte) : Option PaneAction :=
  if b = 0#8 then some .none else if b = 1#8 then some .hold else if b = 2#8 then some .blank else none

def readPaneMask (b : Byte) : Option PaneMask :=
  if b = 0#8 then some .pane0 else if b = 1#8 then some .pane1 else if b = 2#8 then some .both else none

def readLampAction (b : Byte) : Option LampAction :=
  if b = 0#8 then some .leave else if b = 1#8 then some .forceOff else none

def readIntervalMode (b : Byte) : Option IntervalMode :=
  if b = 0#8 then some .repeating else if b = 1#8 then some .once else none

def readClass (b : Byte) : Option FaultClass :=
  if b = 0#8 then some .notice else if b = 1#8 then some .error else if b = 2#8 then some .fatal else none

def readSteering (b : Byte) : Option Steering :=
  if b = 0#8 then some .none else if b = 1#8 then some .panel else if b = 2#8 then some .bridge
  else if b = 3#8 then some .both else none

/-- The seven fields of an override record, or none when one is outside its values (R85, R89). -/
def readOverrideRecord (enabled source match_ latching action mask lamp : Byte) : Option OverrideRecord := do
  let enabled ← readFlag enabled
  let source ← readOverrideSource source
  let matchValue ← readFlag match_
  let latching ← readFlag latching
  let paneAction ← readPaneAction action
  let mask ← readPaneMask mask
  let lampAction ← readLampAction lamp
  return { enabled, source, matchValue, latching, paneAction, mask, lampAction }

/-! ## Writing composite fields -/

/-- A view: Z, cx, cy, rotation. -/
def View.bytes (v : View) : List Byte := num2 v.z ++ num2 v.cx ++ num2 v.cy ++ num1 v.rotation.code

/-- The nine fields of a profile in the order of R17. -/
def Profile.bytes (p : Profile) : List Byte :=
  num1 p.white ++ num2 p.gmax ++ num1 p.floor ++ num1 p.smooth ++ num1 p.coring ++ num1 p.sharpen ++ flag p.ink
    ++ num1 p.black ++ num1 p.chroma

/-- A pane source: kind, then slot number; the number of a source other than SLOT is free (log 14). -/
def PaneSource.bytes : PaneSource → List Byte
  | .live => [0#8, Config.unreadNumber 0]
  | .freeze => [1#8, Config.unreadNumber 1]
  | .slot n => 2#8 :: num1 n.val
  | .blank => [3#8, Config.unreadNumber 3]

/-- Ring buffer or slot: kind, then number; the number of 'none' is free (log 14). -/
def PageRef.bytes : PageRef → List Byte
  | .ring b => 0#8 :: num1 b.val
  | .slot n => 1#8 :: num1 n.val
  | .none => [2#8, Config.unreadNumber 2]

/-- The source of a copy as a ring buffer or slot. -/
def CopySource.ref : CopySource → PageRef
  | .ring b => .ring b
  | .slot0 => .slot 0

/-- The detail of a fault: kind in the order of R174, then number (log 11). -/
def FaultDetail.bytes : FaultDetail → List Byte
  | .ring b => 0#8 :: num1 b.val
  | .slot n => 1#8 :: num1 n.val
  | .override i => 2#8 :: num1 i.val
  | .none => [3#8, Config.unreadNumber 3]

/-- The seven fields of an override record in the order of R85. -/
def OverrideRecord.bytes (r : OverrideRecord) : List Byte :=
  flag r.enabled ++ num1 r.source.code ++ flag r.matchValue ++ flag r.latching ++ num1 r.paneAction.code
    ++ num1 r.mask.code ++ num1 r.lampAction.code

/-- A header log: tag, code, length and four payload bytes, each optional (R174). -/
def HeaderLog.bytes (g : HeaderLog) : List Byte :=
  let one (b : Option Byte) : List Byte := optional 1 (b.map fun v => [v])
  one g.tag ++ one g.code ++ one g.length ++ one g.payload[0]? ++ one g.payload[1]? ++ one g.payload[2]?
    ++ one g.payload[3]?

/-- A first-error record in the order of R174. -/
def FaultRecord.bytes (r : FaultRecord) : List Byte :=
  num1 r.kind.index.val ++ num1 r.origin.code ++ r.detail.bytes ++ optional 14 (r.log.map HeaderLog.bytes)
    ++ num4 r.frameNumber ++ num4 r.clock

/-- The header fields of an entry in the order of R122. -/
def Header.bytes (h : Header) : List Byte :=
  num4 h.seq ++ num1 h.lesson ++ num1 h.position ++ num4 h.time ++ num1 h.profile.val ++ h.view.bytes

/-- The content fields of a slot in the order of R94. -/
def SlotInfo.bytes (i : SlotInfo) : List Byte :=
  num1 i.origin.code ++ num4 i.time ++ num1 i.profile.val ++ i.view.bytes

/-- An extent and a block of it. -/
def extentBlock (p : Fin 225 × Nat) : List Byte := num2 p.1.val ++ num1 p.2

/-! ## Events (R165, R183) -/

/-- Event codes 0x01 to 0x14 (R183). -/
def Event.code : Event → Nat
  | .sceneChange .. => 0x01
  | .rampDone .. => 0x02
  | .applied .. => 0x03
  | .superseded .. => 0x04
  | .presentationChanged .. => 0x05
  | .frozen .. => 0x06
  | .overrideOn .. => 0x07
  | .overrideOff .. => 0x08
  | .captureDone .. => 0x09
  | .captureSkipped .. => 0x0A
  | .intervalStopped .. => 0x0B
  | .saveDone .. => 0x0C
  | .saveFailed .. => 0x0D
  | .recallDone .. => 0x0E
  | .recallFailed .. => 0x0F
  | .exportDone .. => 0x10
  | .exportStalled .. => 0x11
  | .mountDone .. => 0x12
  | .resetNotice .. => 0x13
  | .fault .. => 0x14

/-- The bit of the subscription mask that stands for an event's kind; the other kinds have none (R165, R182). -/
def Event.maskBit : Event → Option Nat
  | .sceneChange .. => some 0
  | .rampDone .. => some 1
  | .presentationChanged .. => some 2
  | .overrideOn .. => some 3
  | .overrideOff .. => some 4
  | .captureDone .. => some 5
  | .captureSkipped .. => some 6
  | .intervalStopped .. => some 7
  | .saveDone .. => some 8
  | .saveFailed .. => some 9
  | .recallDone .. => some 10
  | .recallFailed .. => some 11
  | .applied .. | .superseded .. | .frozen .. | .exportDone .. | .exportStalled .. | .mountDone .. | .resetNotice ..
  | .fault .. => none

/-- An event's payload, in the order its rule lists the fields (R182). -/
def Event.payload : Event → List Byte
  | .sceneChange frame moved counter => num4 frame ++ num2 moved ++ num2 counter
  | .rampDone pane z tag frame => num1 pane.code ++ num2 z ++ [tag] ++ num4 frame
  | .applied tag frame b0 b1 => [tag] ++ num4 frame ++ flag b0 ++ flag b1
  | .superseded tag newer => [tag] ++ num1 (linkCode newer)
  | .presentationChanged cause frame issuer layout s0 s1 b0 b1 =>
    num1 cause.code ++ num4 frame ++ num1 (linkCode issuer) ++ num1 layout.code ++ s0.bytes ++ s1.bytes ++ flag b0 ++ flag b1
  | .frozen pane outcome frame tag => num1 pane.code ++ num1 outcome.code ++ num4 frame ++ [tag]
  | .overrideOn i source level action mask lamp frame =>
    num1 i.val ++ num1 source.code ++ flag level ++ num1 action.code ++ num1 mask.code ++ num1 lamp.code ++ num4 frame
  | .overrideOff i cause level frame => num1 i.val ++ num1 cause.code ++ flag level ++ num4 frame
  | .captureDone tag slot done interval =>
    [tag] ++ num1 slot.val ++ num1 (if done then 0 else 1) ++ num1 (if interval then 1 else 0)
  | .captureSkipped reason clock mode => num1 reason.code ++ num4 clock ++ num1 mode.code
  | .intervalStopped cause => num1 cause.code
  | .saveDone tag slot lesson position extent seq =>
    [tag] ++ num1 slot.val ++ num1 lesson ++ num1 position ++ num2 extent.val ++ num4 seq
  | .saveFailed tag slot lesson position reason =>
    [tag] ++ num1 slot.val ++ num1 lesson ++ num1 position ++ num1 reason.code
  | .recallDone tag slot extent seq lesson position late =>
    [tag] ++ num1 slot.val ++ num2 extent.val ++ num4 seq ++ num1 lesson ++ num1 position ++ flag late
  | .recallFailed tag slot extent reason => [tag] ++ num1 slot.val ++ num2 extent.val ++ num1 reason.code
  | .exportDone slot => num1 slot.val
  | .exportStalled slot offset => num1 slot.val ++ num4 offset
  | .mountDone cause outcome free writing valid stale retired duplicates unlinked =>
    num1 cause.code ++ num1 outcome.code ++ num1 free ++ num1 writing ++ num1 valid ++ num1 stale ++ num1 retired
      ++ num1 duplicates ++ num1 unlinked
  | .resetNotice issuer => num1 (linkCode issuer)
  | .fault cls kind origin detail frame marker =>
    num1 cls.code ++ num1 kind.index.val ++ num1 origin.code ++ detail.bytes ++ num4 frame ++ num1 marker.code

/-! ## Records (R181) -/

/-- The bytes of a record after its length byte. -/
def Record.tail : Record → List Byte
  | .response tag code result payload => 0x01#8 :: tag :: code :: BitVec.ofNat 8 result.code :: payload
  | .event e => 0x02#8 :: BitVec.ofNat 8 e.code :: e.payload

/-- A record with its length byte, which counts every byte of it. -/
def Record.bytes (r : Record) : List Byte := BitVec.ofNat 8 (r.tail.length + 1) :: r.tail

/-- The empty marker. -/
def emptyMarker : List Byte := [2#8, 0x00#8]

end Sys2Proof.Machine
end

