-- ==== Sys2Proof/Machine/Ops.lean ====
section
/-!
DEFINITION. The operations every block uses: placing records in the response queues (R163, R165, R166), raising a fault
(R174, R175), drawing a free value, and the condition under which a link takes a command (R163).
-/

namespace Sys2Proof.Machine

/-! ## Links -/

/-- The other link. -/
def otherLink : Link → Link
  | .panel => .bridge
  | .bridge => .panel

/-- The state with one link's record replaced. -/
def State.setLink (s : State) (l : Link) (v : LinkState) : State := s.withLinks (s.links.set l v)

/-- The state with a link's transaction in progress replaced (R159). -/
def State.setTransaction (s : State) (l : Link) (t : Option Transaction) : State :=
  s.setLink l { s.links.get l with transaction := t }

/-- Places in a command queue (R161). -/
def commandPlaces : Nat := 8

/-- Places in a response queue (R163). -/
def responsePlaces : Nat := 16

/-- The link takes a command only when the part is not STARTING and a response place is free (R163). -/
def canTake (s : State) (l : Link) : Bool :=
  !s.starting && decide ((s.links.get l).responses.length < responsePlaces)

/-- The taking of a command: it happens when the link can take it, and otherwise nothing happens yet (log 2). -/
def whenTaken (l : Link) (s : State) (taken : State) : State := if canTake s l then taken else s

/-- A response goes into the link's free place (R163). -/
def respond (l : Link) (tag code : Byte) (result : Result) (payload : List Byte) (s : State) : State :=
  let k := s.links.get l
  s.setLink l { k with responses := k.responses ++ [.response tag code result payload] }

/-- A refused command's response holds no payload (R163). -/
def refuse (l : Link) (tag code : Byte) (result : Result) (s : State) : State := respond l tag code result [] s

/-- The link's record after an event has been dropped on it (R166): the events-lost flag is set, and a transaction in progress
is marked. -/
def LinkState.dropEvent (k : LinkState) : LinkState :=
  { k with eventsLost := true, transaction := k.transaction.map fun t => { t with dropped := true } }

/-- An event goes to a link's response queue if a place is free, and otherwise is dropped (R165, R166). -/
def postTo (e : Event) (l : Link) (s : State) : State :=
  let k := s.links.get l
  if k.responses.length < responsePlaces then s.setLink l { k with responses := k.responses ++ [.event e] }
  else s.setLink l k.dropEvent

/-- Whether a link's subscription mask includes an event's kind (R165). -/
def subscribed (e : Event) (k : LinkState) : Bool :=
  match e.maskBit with
  | some i => k.mask.getLsbD i
  | none => false

/-- The event to a link whose mask includes it. -/
def postSubscribed (e : Event) (l : Link) (s : State) : State :=
  if subscribed e (s.links.get l) then postTo e l s else s

/-- An event with an issuing link: to the issuer whatever its mask, to the other by its mask (R165). -/
def postIssued (e : Event) (issuer : Link) (s : State) : State :=
  s |> postTo e issuer |> postSubscribed e (otherLink issuer)

/-- An event with no issuing link: to each link whose mask includes it (R165). -/
def postByMask (e : Event) (s : State) : State := s |> postSubscribed e .panel |> postSubscribed e .bridge

/-- An event that may have an issuing link (R165). -/
def postFor (e : Event) (issuer : Option Link) (s : State) : State :=
  match issuer with
  | some l => postIssued e l s
  | none => postByMask e s

/-- An event to both links, whatever their masks (R126, R165). -/
def postBoth (e : Event) (s : State) : State := s |> postTo e .panel |> postTo e .bridge

/-! ## Faults -/

/-- HALTED exactly while the FATAL record is valid (R176). -/
def halted (s : State) : Bool := s.faults.fatal.isSome

def SteeringTable.of (t : SteeringTable) : FaultClass → Steering
  | .notice => t.notice
  | .error => t.error
  | .fatal => t.fatal

/-- Whether a steering value names a link (R173). -/
def Steering.names : Steering → Link → Bool
  | .none, _ => false
  | .panel, .panel => true
  | .panel, .bridge => false
  | .bridge, .panel => false
  | .bridge, .bridge => true
  | .both, _ => true

/-- A FAULT event goes to each link the class is steered to, whatever its mask (R175). -/
def postSteered (e : Event) (v : Steering) (s : State) : State :=
  let s := if v.names .panel then postTo e .panel s else s
  if v.names .bridge then postTo e .bridge s else s

/-- The FAULT event of a fault (R175). -/
def postFault (cls : FaultClass) (kind : FaultKind) (origin : FaultOrigin) (detail : FaultDetail) (marker : FaultMarker)
    (s : State) : State :=
  postSteered (.fault cls kind origin detail s.comp.frameCounter marker) (s.faults.steering.of cls) s

/-- The record of a fault raised now (R174). -/
def faultRecord (kind : FaultKind) (origin : FaultOrigin) (detail : FaultDetail) (log : Option HeaderLog) (s : State) :
    FaultRecord :=
  { kind, origin, detail, log, frameNumber := s.comp.frameCounter, clock := s.store.clock }

/-- A fault is raised: the policy drops it, or it sets its notice flag, or it writes its class's first-error record, or it
sets the class's next-error flag; a change posts a FAULT event (R174, R175). -/
def raise (kind : FaultKind) (origin : FaultOrigin) (detail : FaultDetail) (log : Option HeaderLog) (s : State) : State :=
  let f := s.faults
  let p := f.policy.get kind.index
  if p.masked then s
  else match p.severity with
    | .notice =>
      if f.notices.get kind.index then s
      else s.withFaults { f with notices := f.notices.set kind.index true } |> postFault .notice kind origin detail .notice
    | .error =>
      if f.error.isNone then
        s.withFaults { f with error := some (faultRecord kind origin detail log s) }
          |> postFault .error kind origin detail .first
      else if f.errorNext then s
      else s.withFaults { f with errorNext := true } |> postFault .error kind origin detail .next
    | .fatal =>
      if f.fatal.isNone then
        s.withFaults { f with fatal := some (faultRecord kind origin detail log s) }
          |> postFault .fatal kind origin detail .first
      else if f.fatalNext then s
      else s.withFaults { f with fatalNext := true } |> postFault .fatal kind origin detail .next

/-- A fault of a block inside the part (R173: origin INTERNAL). -/
def raiseInternal (kind : FaultKind) (detail : FaultDetail) (s : State) : State := raise kind .internal detail none s

/-- The origin of a fault of a link's frames (R173). -/
def linkOrigin : Link → FaultOrigin
  | .panel => .panel
  | .bridge => .bridge

/-! ## Free values -/

/-- One more free value drawn (log 40). The number drawn is `s.freeCount` of the state before. -/
def State.draw (s : State) : State := s.withFreeCount (s.freeCount + 1)

/-! ## Taking out of a queue -/

/-- The first element that satisfies `p` changed by `f`. -/
def updateFirst {α : Type} (p : α → Bool) (f : α → α) : List α → List α
  | [] => []
  | a :: rest => if p a then f a :: rest else a :: updateFirst p f rest

end Sys2Proof.Machine
end

