-- ==== Sys2Proof/Machine/Flags.lean ====
section
/-!
DEFINITION. What the part reports of itself, formed from its records: fault pending, part phase and status byte (R160,
R180), ATTN (R167), and the port state (R145).
-/

namespace Sys2Proof.Machine

/-- Whether a fault class is pending (R175). -/
def classPending (f : Faults) : FaultClass → Bool
  | .notice => f.notices.data.any id
  | .error => f.error.isSome || f.errorNext
  | .fatal => f.fatal.isSome || f.fatalNext

/-- Whether a class steered to a link has its record or flag set (R160, R175). -/
def faultPending (s : State) (l : Link) : Bool :=
  let f := s.faults
  (classPending f .notice && f.steering.notice.names l) || (classPending f .error && f.steering.error.names l)
    || (classPending f .fatal && f.steering.fatal.names l)

/-- The part phase: READY 0, STARTING 1, MOUNTING 2, HALTED 3 (R160, R180). -/
def partPhase (s : State) : Nat :=
  if s.starting then 1 else if s.arch.mount = .mounting then 2 else if halted s then 3 else 0

/-- The link status byte (R160, bits by R180). -/
def statusByte (s : State) (l : Link) : Byte :=
  let k := s.links.get l
  let bit (b : Bool) (w : Nat) : Nat := if b then w else 0
  BitVec.ofNat 8 (min 3 (commandPlaces - k.commands.length) + bit (!k.responses.isEmpty) 4 + bit k.eventsLost 8
    + bit (faultPending s l) 16 + bit k.exporting.isSome 32 + 64 * partPhase s)

/-- Whether the link's ATTN line is driven low (R167). It is released until STARTING ends (R167, log 51). -/
def attnLow (s : State) (l : Link) : Bool :=
  let k := s.links.get l
  !s.starting && (decide (k.watermark ≤ k.responses.length) || faultPending s l || k.exporting.isSome)

/-- The port state, numbered in the order of the table of R145 (R182): OFFLINE 0, SUSPENDED 1, BUSY 2, IDLE 3. -/
def portState (p : FlashPort) : Nat :=
  if p.offline then 0 else if p.suspended.isSome then 1 else if p.command.isSome then 2 else 3

end Sys2Proof.Machine
end

