-- ==== Sys2Proof/Machine/Transactions.lean ====
section
/-!
DEFINITION. The course of a link transaction (R159): the fall of chip-select, the kind byte, the bytes returned, and the end.
A row's step is one of its moments, or the whole transaction (log 4).
-/

namespace Sys2Proof.Machine

/-! ## Kinds -/

/-- The kind that a kind byte names (R180). -/
def readKind (kind : Byte) : TransactionKind :=
  if kind = 0x31#8 then .command
  else if kind = 0x32#8 then .fetch
  else if kind = 0x33#8 then .bulk
  else if kind = 0x3C#8 then .linkReset
  else .unknown

/-- A kind byte of the table of R180. -/
def knownKind (kind : Byte) : Bool := decide (readKind kind ≠ .unknown)

/-! ## The transaction in progress -/

/-- A transaction whose chip-select falls now: the status byte is formed (R159, R160). -/
def opened (s : State) (l : Link) : Transaction :=
  { status := statusByte s l, kind := none, record := none, sent := [], dropped := false, cut := false }

/-- The transaction in progress on a link, or the one that begins with this step. -/
def transactionNow (s : State) (l : Link) : Transaction := ((s.links.get l).transaction).getD (opened s l)

/-- A transaction carries one kind (R159). -/
def Transaction.goesOnAs (t : Transaction) (kind : TransactionKind) : Bool :=
  match t.kind with
  | none => true
  | some k => decide (k = kind)

/-- Chip-select falls. A transaction that had no whole kind byte has risen without a kind and is ignored (R159); one that has
a kind is still in progress, and chip-select cannot fall (log 3). -/
def chipSelectFalls (l : Link) (s : State) : State :=
  if (transactionNow s l).kind.isSome then s else s.setTransaction l (some (opened s l))

/-- A transaction that a soft reset cuts (R171). -/
def Transaction.cutOff (t : Transaction) : Transaction := { t with cut := true }

/-! ## The kind byte -/

/-- The record a FETCH returns: none while STARTING (R172, log 51) or with the queue empty (R164). -/
def fetchHead (s : State) (l : Link) : Option Record :=
  if s.starting then none else (s.links.get l).responses.head?

/-- Whether the kind byte of this transaction clears the events-lost flag: a FETCH's whose status byte showed it, with no event
dropped on the link since (R166). -/
def Transaction.clearsLost (t : Transaction) (kind : TransactionKind) : Bool :=
  decide (kind = .fetch) && t.status.getLsbD 3 && !t.dropped

/-- The header log of received fields (R161, R162). -/
def headerLog (tag code length : Option Byte) (payload : List Byte) : HeaderLog :=
  { tag, code, length, payload := payload.take 4 }

/-- The kind byte ends: a FETCH takes the record it returns and clears the events-lost flag that its status byte showed (R164,
R166); an unknown kind raises MALFORMED_FRAME with an empty header log (R159). -/
def kindByteEnds (l : Link) (kind : TransactionKind) (s : State) : State :=
  let t := transactionNow s l
  if t.kind.isSome then s
  else
    let k := s.links.get l
    let record := if kind = .fetch then fetchHead s l else t.record
    let s := s.setLink l { k with eventsLost := k.eventsLost && !t.clearsLost kind,
                                  transaction := some { t with kind := some kind, record := record } }
    if kind = .unknown then raise .malformedFrame (linkOrigin l) .none (some (headerLog none none none [])) s else s

/-! ## The bytes returned -/

/-- The data that the part returns after the status byte in the first `clocked` bytes (R159): those sent before a soft reset cut
the transaction (R171), or the data of its kind. -/
def Transaction.data (t : Transaction) (clocked : Nat) (own : List Byte) : List Byte :=
  if t.cut then t.sent.take clocked else own

/-- The data, and zeros for the bytes clocked beyond it (R159). -/
def padded (data : List Byte) (clocked : Nat) : List Byte := data ++ List.replicate (clocked - data.length) 0#8

/-! ## One step of a transaction -/

/-- What a kind returns in its first so many bytes, by the transaction and the state. -/
abbrev OwnData := Transaction → Nat → State → List Byte

/-- The kind byte and `n` bytes after it have been clocked: they are noted as sent. -/
def noteSent (l : Link) (n : Nat) (own : OwnData) (s : State) : State :=
  let t := transactionNow s l
  s.setTransaction l (some { t with sent := padded (t.data n (own t n s)) n })

/-- The transaction is over, and the bytes it returned stand in `miso`. The status byte is the one formed at the fall of
chip-select (R159), also when a soft reset came before the kind byte's end: R171 makes the bytes of a cut transaction 0, and
the model takes that of the bytes after the status byte (DEDUCED, log 60). -/
def closeTransaction (l : Link) (clocked : Nat) (own : OwnData) (s : State) : State :=
  let t := transactionNow s l
  s.setLink l { s.links.get l with
    transaction := none, miso := t.status :: padded (t.data clocked (own t clocked s)) clocked }

/-- One moment of a transaction (R159, log 4). `clocked` counts the bytes clocked after the kind byte by its end, `own` gives the
data that the kind returns, and `finish` is what its end does. A step of another kind than the transaction in progress is no
step of it (log 3). -/
def transact {α : Type} (l : Link) (kind : TransactionKind) (moment : Moment α) (clocked : α → Nat) (own : OwnData)
    (finish : α → Transaction → State → State) (s : State) : State :=
  let begun := kindByteEnds l kind s
  match moment with
  | .falls => chipSelectFalls l s
  | .clocks n => if (transactionNow s l).goesOnAs kind then noteSent l n own begun else s
  | .ends held =>
    if (transactionNow s l).goesOnAs kind then
      finish held (transactionNow begun l) (closeTransaction l (clocked held) own begun)
    else s

/-- A transaction that returns no data of its own (R159). -/
def noData : OwnData := fun _ _ _ => []

end Sys2Proof.Machine
end

