-- ==== Sys2Proof/Machine/Ring.lean ====
section
/-!
DEFINITION. The Frame Ring (R11 to R16): choosing the buffer to write, completing and freeing it, and its pins.
-/

namespace Sys2Proof.Machine

/-- The newest complete buffer: the last entry of the completion list (R11, R13). -/
def newest (r : Ring) : Option (Fin 4) := r.order.getLast?

/-- The buffer the Intake is given: the lowest FREE one, else the oldest COMPLETE one with pin count 0 (R12). -/
def ringChoice (r : Ring) : Option (Fin 4) :=
  match r.buffers.first? fun b => decide (b.state = .free) with
  | some b => some b
  | none => r.order.find? fun b => decide ((r.buffers.get b).pins = 0)

/-- The chosen buffer becomes FILLING, its damage mark and frame number are cleared, and it leaves the completion list
(R11, R12). -/
def ringTake (r : Ring) (b : Fin 4) : Ring :=
  { buffers := r.buffers.update b fun v => { v with state := .filling, frameNumber := 0, damaged := false }
    order := r.order.filter fun c => decide (c ≠ b) }

/-- The buffer becomes COMPLETE with its frame number and joins the list as its newest entry (R5, R11). -/
def ringComplete (r : Ring) (b : Fin 4) (frame : Nat) : Ring :=
  { buffers := r.buffers.update b fun v => { v with state := .complete, frameNumber := frame }
    order := r.order ++ [b] }

/-- The buffer of a truncated frame becomes FREE (R6, R11). -/
def ringFree (r : Ring) (b : Fin 4) : Ring :=
  { r with buffers := r.buffers.update b fun v => { v with state := .free, frameNumber := 0 } }

/-- One pin more on a buffer (R13). -/
def ringPin (b : Fin 4) (r : Ring) : Ring :=
  { r with buffers := r.buffers.update b fun v => { v with pins := v.pins + 1 } }

/-- One pin less on a buffer (R13). -/
def ringUnpin (b : Fin 4) (r : Ring) : Ring :=
  { r with buffers := r.buffers.update b fun v => { v with pins := v.pins - 1 } }

/-- A pin released if there is one. -/
def ringUnpin? (b : Option (Fin 4)) (r : Ring) : Ring :=
  match b with
  | some b => ringUnpin b r
  | none => r

/-- Bytes written into a buffer's content (R37). -/
def ringWrite (r : Ring) (b : Fin 4) (offset : Nat) (bytes : List Byte) : Ring :=
  { r with buffers := r.buffers.update b fun v =>
      { v with content := v.content.writeRun Config.dramBlank offset bytes } }

/-- The buffer a Page Mover pin is granted on: the newest complete one, when no buffer holds a Page Mover pin or that very
buffer holds them (R14). `moverPins` are the ring sources of the Page Mover's requests. -/
def ringGrant (r : Ring) (moverPins : List (Fin 4)) : Option (Fin 4) :=
  match newest r with
  | some b => if moverPins.all fun c => decide (c = b) then some b else none
  | none => none

/-- The ring after a reset: every buffer FREE and unpinned, the content not cleared (R16). -/
def ringAfterReset (r : Ring) : Ring :=
  { buffers := r.buffers.map fun v => { v with state := .free, frameNumber := 0, pins := 0, damaged := false }
    order := [] }

/-- Whether the Compositor fetches samples for a pane: for one that shows a picture, and for none whose source is BLANK, that is
not shown, or that is held or blanked by an override (R56, R75; DEDUCED, log 58). -/
def fetches : Shown → Bool
  | .picture => true
  | .held | .heldBlank | .overrideBlank | .noFrame | .notShown | .blankSource => false

/-- The Compositor reads a ring buffer in this output frame: it fetches samples for a pane that shows it (R56, R75, R78). -/
def readsRing (s : State) (b : Fin 4) : Bool :=
  let reads (d : PaneDisplay) : Bool := decide (d.page = .ring b) && fetches d.shown
  reads s.comp.display.pane0 || reads s.comp.display.pane1

/-- RING_READ_UNCORRECTABLE (R15): the Compositor met an uncorrectable error in a COMPLETE buffer. On a buffer that it does not
read there is no such event, and the row changes nothing (DEDUCED, log 3; a held pane's buffer is not read, log 58). -/
def execRingReadUncorrectable (b : Fin 4) (s : State) : StepOutcome :=
  let v := s.ring.buffers.get b
  if v.state = .complete ∧ v.damaged = false ∧ readsRing s b = true then
    .next (s.withRing { s.ring with buffers := s.ring.buffers.set b { v with damaged := true } }
      |> raiseInternal .dramUncorrectable (.ring b))
  else .next s

/-- DRAM_CORRECTED (R15, R76, R100, R107, R117, R132): a single-bit error of a DRAM read was corrected. It is recorded
in any state, while STARTING too (DEDUCED, log 51). -/
def execDramCorrected (s : State) : StepOutcome := .next (raiseInternal .dramCorrected .none s)

end Sys2Proof.Machine
end

