-- ==== Sys2Proof/Machine/Guard.lean ====
section
/-!
DEFINITION. The Guard Unit (R79 to R93): debounced inputs, override evaluation, LAMP_EN, and the guard commands.
-/

namespace Sys2Proof.Machine

/-! ## Levels, matching and LAMP_EN -/

/-- The level of a source; NONE has none (R79, R83, R85). -/
def sourceLevel (g : Guard) : Source → Option Bool
  | .none => none
  | .armFold => some g.arm.debounced
  | .lampSense => some g.lamp.debounced
  | .intakeLoss => some g.lossLevel

/-- An override's source matches when the source's level equals the match value (R85). -/
def sourceMatches (g : Guard) (r : OverrideRecord) : Bool := decide (sourceLevel g r.source = some r.matchValue)

/-- An ACTIVE override with the lamp action FORCE_OFF (R84). -/
def forcesLampOff (o : Override) : Bool := o.active && decide (o.record.lampAction = .forceOff)

/-- LAMP_EN is high while the commanded state is ON and no ACTIVE override forces the lamp off (R84). -/
def lampLevel (g : Guard) : Bool := g.commanded && !(g.overrides.data.any forcesLampOff)

/-- LAMP_EN formed afresh (R84). -/
def formLamp (g : Guard) : Guard := { g with lampEn := lampLevel g }

/-- The state with one override replaced. -/
def State.setOverride (s : State) (i : Fin 3) (o : Override) : State :=
  s.withGuard { s.guard with overrides := s.guard.overrides.set i o }

/-- LAMP_EN formed afresh when an override with the lamp action FORCE_OFF changed state (R84, R86, R87). -/
def formLampFor (r : OverrideRecord) (s : State) : State :=
  if r.lampAction = .forceOff then s.withGuard (formLamp s.guard) else s

/-! ## Becoming ACTIVE and returning to IDLE -/

/-- An override becomes ACTIVE: count, LAMP_EN, OVERRIDE_ON, OVERRIDE_TRIGGERED (R86). -/
def activate (i : Fin 3) (s : State) : State :=
  let o := s.guard.overrides.get i
  let r := o.record
  s.setOverride i { o with active := true, count := satSucc 65535 o.count }
    |> formLampFor r
    |> postByMask (.overrideOn i r.source ((sourceLevel s.guard r.source).getD false) r.paneAction r.mask r.lampAction
        s.comp.frameCounter)
    |> raiseInternal .overrideTriggered (.override i)

/-- Steps 1 and 2 of R87: the override returns to IDLE and LAMP_EN is formed afresh. -/
def makeIdle (i : Fin 3) (s : State) : State :=
  let o := s.guard.overrides.get i
  s.setOverride i { o with active := false } |> formLampFor o.record

/-- The OVERRIDE_OFF event of an override (R87, R88). -/
def offEvent (i : Fin 3) (cause : OverrideOffCause) (s : State) : Event :=
  .overrideOff i cause ((sourceLevel s.guard (s.guard.overrides.get i).record.source).getD false) s.comp.frameCounter

/-- One override tested after a change of its source's level (R86, R87). -/
def evaluateOverride (i : Fin 3) (s : State) : State :=
  let o := s.guard.overrides.get i
  let m := sourceMatches s.guard o.record
  if o.active then
    if !o.record.latching && !m then makeIdle i s |> postByMask (offEvent i .source s) else s
  else if o.record.enabled && m then activate i s
  else s

/-- Overrides on a source evaluated in number order (R79, R83, R86). -/
def evaluateSource (src : Source) (s : State) : State :=
  let one (i : Fin 3) (s : State) : State :=
    if (s.guard.overrides.get i).record.source = src then evaluateOverride i s else s
  s |> one 0 |> one 1 |> one 2

/-! ## Inputs -/

/-- The debounce time of ARM_FOLD in milliseconds (R80). -/
def armDebounce : Nat := 20

/-- A new raw level: a run starts when it differs from the debounced level and stops when it returns to it (R79). -/
def takeRaw (time : Nat) (level : Bool) (i : DebouncedInput) : DebouncedInput :=
  if level = i.raw then i else { i with raw := level, run := if level = i.debounced then none else some time }

/-- Whether the pin stands exactly at the threshold voltage, code times 1.2 V divided by 255 (R81). -/
def atThreshold (microvolts code : Nat) : Bool := decide (microvolts * 255 = code * 1200000)

/-- The comparator's output: 1 above the threshold, 0 below, free at it (R81, log 18). -/
def comparator (free microvolts code : Nat) : Bool :=
  if microvolts * 255 > code * 1200000 then true
  else if atThreshold microvolts code then Config.comparatorTie free
  else false

/-- The LAMP_SENSE raw level formed from the pin and the threshold, a change handled as any other (R79, R81, R82). -/
def takeComparator (s : State) : State :=
  let g := s.guard
  let level := comparator s.freeCount g.lampPin g.threshold
  let s := s.withGuard { g with lamp := takeRaw g.debounceTime level g.lamp }
  if atThreshold g.lampPin g.threshold then s.draw else s

/-- When STARTING ends the Guard Unit starts reading the ARM_FOLD pin and the comparator (R92). -/
def startReading (s : State) : State :=
  s.withGuard { s.guard with arm := takeRaw armDebounce s.guard.armPin s.guard.arm } |> takeComparator

/-- The INTAKE_LOSS level given by the Intake; a change is a source change, with no debounce (R83). -/
def setLossLevel (level : Bool) (s : State) : State :=
  if level = s.guard.lossLevel then s
  else s.withGuard { s.guard with lossLevel := level } |> evaluateSource .intakeLoss

/-- ARM_FOLD_CHANGE (R79, R80). While STARTING the raw level is taken as 0 (R92). -/
def execArmFoldChange (level : Bool) (s : State) : StepOutcome :=
  let s := s.withGuard { s.guard with armPin := level }
  .next (if s.starting then s
    else s.withGuard { s.guard with arm := takeRaw armDebounce level s.guard.arm })

/-- LAMP_SENSE_CHANGE (R79, R81). While STARTING the raw level is taken as 0 (R92). -/
def execLampSenseChange (microvolts : Nat) (s : State) : StepOutcome :=
  let s := s.withGuard { s.guard with lampPin := microvolts }
  .next (if s.starting then s else takeComparator s)

/-- DEBOUNCE_RUN_EXPIRY (R79): the debounced level takes the raw level and the overrides on the input are evaluated. -/
def execDebounceRunExpiry (input : GuardInput) (s : State) : StepOutcome :=
  let expire (i : DebouncedInput) : DebouncedInput := { i with debounced := i.raw, run := none }
  match input with
  | .armFold =>
    if s.guard.arm.run.isSome then
      .next (s.withGuard { s.guard with arm := expire s.guard.arm } |> evaluateSource .armFold)
    else .next s
  | .lampSense =>
    if s.guard.lamp.run.isSome then
      .next (s.withGuard { s.guard with lamp := expire s.guard.lamp } |> evaluateSource .lampSense)
    else .next s

/-! ## Soft reset (R93) -/

/-- An enabled IDLE override tested in the re-evaluation of a soft reset. -/
def reevaluate (i : Fin 3) (s : State) : State :=
  let o := s.guard.overrides.get i
  if !o.active && o.record.enabled && sourceMatches s.guard o.record then activate i s else s

/-- The overrides after a soft reset: all IDLE without an event, then each enabled one tested, then LAMP_EN (R93). -/
def guardAfterReset (s : State) : State :=
  let g := s.guard
  let s := s.withGuard { g with lossLevel := false, overrides := g.overrides.map fun o => { o with active := false } }
  let s := s |> reevaluate 0 |> reevaluate 1 |> reevaluate 2
  s.withGuard (formLamp s.guard)

/-! ## Commands -/

/-- SET_LAMP (R84); ON is 1 (log 9). The length is checked before the value (log 54). -/
def takeSetLamp (l : Link) (tag : Byte) (payload : List Byte) (s : State) : State :=
  match payload with
  | [v] =>
    match readFlag v with
    | none => refuse l tag 0x50#8 .badArgument s
    | some on =>
      let g := formLamp { s.guard with commanded := on }
      respond l tag 0x50#8 .ok (flag on ++ flag g.lampEn) (s.withGuard g)
  | _ => refuse l tag 0x50#8 .badLength s

/-- SET_LAMP_SENSE (R82). The new debounce time is stored before the comparator takes the new threshold, so a run that the
command itself starts loads the new time; R82 says so only of runs that start after the command (DEDUCED, log 59). -/
def takeSetLampSense (l : Link) (tag : Byte) (payload : List Byte) (s : State) : State :=
  match payload with
  | [code, time] =>
    let s := s.withGuard { s.guard with threshold := code.toNat, debounceTime := clampNat time.toNat 1 255 }
      |> takeComparator
    respond l tag 0x51#8 (if outside time.toNat 1 255 then .clamped else .ok)
      (num1 s.guard.threshold ++ num1 s.guard.debounceTime ++ flag s.guard.lamp.raw ++ flag s.guard.lamp.debounced) s
  | _ => refuse l tag 0x51#8 .badLength s

/-- IDLE 0, ACTIVE 1. -/
def overrideStateBytes (active : Bool) : List Byte := num1 (if active then 1 else 0)

/-- WRITE_OVERRIDE (R89). -/
def takeWriteOverride (l : Link) (tag : Byte) (payload : List Byte) (s : State) : State :=
  match payload with
  | [number, f0, f1, f2, f3, f4, f5, f6] =>
    match readBelow 3 number.toNat with
    | none => refuse l tag 0x52#8 .badArgument s
    | some i =>
      match readOverrideRecord f0 f1 f2 f3 f4 f5 f6 with
      | none => refuse l tag 0x52#8 .badArgument s
      | some r =>
        let o := s.guard.overrides.get i
        if o.active then refuse l tag 0x52#8 .overrideActive s
        else
          let s := s.setOverride i { o with record := r }
          let acts := r.enabled && sourceMatches s.guard r
          let s := respond l tag 0x52#8 .ok (r.bytes ++ overrideStateBytes acts) s
          if acts then activate i s else s
  | _ => refuse l tag 0x52#8 .badLength s

/-- The source level an override was tested against; NONE has none (log 15). -/
def levelBytes (g : Guard) (src : Source) : List Byte :=
  match sourceLevel g src with
  | some b => flag b
  | none => [Config.levelOfNone]

/-- CLEAR_OVERRIDE (R88). The length is checked before the number (log 54). -/
def takeClearOverride (l : Link) (tag : Byte) (payload : List Byte) (s : State) : State :=
  match payload with
  | [number] =>
    match readBelow 3 number.toNat with
    | none => refuse l tag 0x53#8 .badArgument s
    | some i =>
      let o := s.guard.overrides.get i
      let level := levelBytes s.guard o.record.source
      if !o.active then respond l tag 0x53#8 .ok (overrideStateBytes false ++ level) s
      else if sourceMatches s.guard o.record then
        respond l tag 0x53#8 .stillMatching (overrideStateBytes true ++ level) s
      else
        respond l tag 0x53#8 .ok (overrideStateBytes false ++ level) s
          |> makeIdle i |> postIssued (offEvent i .cleared s) l
  | _ => refuse l tag 0x53#8 .badLength s

/-- What READ_GUARD returns, in the order of the table of R91. -/
def guardBytes (g : Guard) : List Byte :=
  flag g.arm.raw ++ flag g.arm.debounced ++ flag g.arm.run.isSome
    ++ flag g.lamp.raw ++ flag g.lamp.debounced ++ flag g.lamp.run.isSome
    ++ num1 g.threshold ++ num1 g.debounceTime ++ flag g.lossLevel ++ flag g.commanded ++ flag g.lampEn
    ++ g.overrides.data.flatMap (fun o => o.record.bytes)
    ++ g.overrides.data.flatMap (fun o => overrideStateBytes o.active)
    ++ g.overrides.data.flatMap (fun o => flag (sourceMatches g o.record))
    ++ g.overrides.data.flatMap (fun o => num2 o.count)

/-- READ_GUARD (R91). -/
def takeReadGuard (l : Link) (tag : Byte) (_payload : List Byte) (s : State) : State :=
  respond l tag 0x54#8 .ok (guardBytes s.guard) s

def execSetLamp (l : Link) (tag : Byte) (payload : List Byte) (s : State) : StepOutcome :=
  .next (whenTaken l s (takeSetLamp l tag payload s))

def execSetLampSense (l : Link) (tag : Byte) (payload : List Byte) (s : State) : StepOutcome :=
  .next (whenTaken l s (takeSetLampSense l tag payload s))

def execWriteOverride (l : Link) (tag : Byte) (payload : List Byte) (s : State) : StepOutcome :=
  .next (whenTaken l s (takeWriteOverride l tag payload s))

def execClearOverride (l : Link) (tag : Byte) (payload : List Byte) (s : State) : StepOutcome :=
  .next (whenTaken l s (takeClearOverride l tag payload s))

def execReadGuard (l : Link) (tag : Byte) (payload : List Byte) (s : State) : StepOutcome :=
  .next (whenTaken l s (takeReadGuard l tag payload s))

end Sys2Proof.Machine
end

