-- ==== Sys2Proof/Machine/Store.lean ====
section
/-!
DEFINITION. The Page Store's operations on slots and on the lesson list (R94 to R108, R110 to R113), the lesson clock
(R97), and the commands that touch nothing else.
-/

namespace Sys2Proof.Machine

/-! ## Slots -/

/-- The record of a slot. -/
def State.slot (s : State) (n : Fin 24) : Slot := s.store.slots.get n

/-- The state with a slot's record replaced. -/
def State.setSlot (s : State) (n : Fin 24) (v : Slot) : State :=
  s.withStore { s.store with slots := s.store.slots.set n v }

/-- A pin placed on a slot (R96). -/
def slotPin (n : Fin 24) (s : State) : State := s.setSlot n { s.slot n with pins := (s.slot n).pins + 1 }

/-- A pin released from a slot (R96). -/
def slotUnpin (n : Fin 24) (s : State) : State := s.setSlot n { s.slot n with pins := (s.slot n).pins - 1 }

/-- The content states (R94). -/
def hasContent : SlotState → Bool
  | .empty | .filling => false
  | .held | .saving | .saved | .damaged => true

/-- A slot becomes EMPTY: its fields and link are removed and it leaves the lesson list (R94, R105). -/
def emptySlot (n : Fin 24) (s : State) : State :=
  let s := s.setSlot n { s.slot n with state := .empty, info := none, link := none }
  s.withStore { s.store with lesson := s.store.lesson.filter fun m => decide (m ≠ n) }

/-- A slot becomes FILLING with its fields written and the filler's pin placed (R94, R103, R104, R136). -/
def fillSlot (n : Fin 24) (info : SlotInfo) (s : State) : State :=
  s.setSlot n { s.slot n with state := .filling, info := some info, link := none, pins := (s.slot n).pins + 1 }

/-- An uncorrectable read of a slot that is HELD, SAVING or SAVED makes it DAMAGED and raises the fault (R107). Only a SAVED
slot keeps its link (R94). -/
def damageSlot (n : Fin 24) (s : State) : State :=
  let v := s.slot n
  match v.state with
  | .held | .saving =>
    s.setSlot n { v with state := .damaged, link := none } |> raiseInternal .dramUncorrectable (.slot n)
  | .saved => s.setSlot n { v with state := .damaged } |> raiseInternal .dramUncorrectable (.slot n)
  | .empty | .filling | .damaged => s

/-- A slot's record after the entry it links stopped being VALID (R108). -/
def unlinked (v : Slot) : Slot :=
  match v.state with
  | .saved => { v with state := .held, link := none }
  | _ => { v with link := none }

/-- Whether a slot links an extent's entry. -/
def linksExtent (e : Fin 225) (v : Slot) : Bool :=
  match v.link with
  | some k => decide (k.extent = e)
  | none => false

/-- An entry stopped being VALID: the slots that link it drop the link, and SAVED ones become HELD (R108, R123). -/
def unlinkExtent (e : Fin 225) (s : State) : State :=
  s.withStore { s.store with slots := s.store.slots.map fun v => if linksExtent e v then unlinked v else v }

/-- DAMAGED slots that link an entry drop the link (R137). -/
def unlinkDamaged (e : Fin 225) (s : State) : State :=
  let drop (v : Slot) : Slot := if linksExtent e v ∧ v.state = .damaged then { v with link := none } else v
  s.withStore { s.store with slots := s.store.slots.map drop }

/-- The lowest-numbered EMPTY slot from 1 to 23 (R102, R115, R136). -/
def lowestEmpty (s : State) : Option (Fin 24) :=
  (List.finRange 24).find? fun n => decide (n ≠ 0 ∧ (s.slot n).state = .empty)

/-- How many lesson slots are EMPTY (R109, R138). -/
def emptyCount (s : State) : Nat :=
  (List.finRange 24).countP fun n => decide (n ≠ 0 ∧ (s.slot n).state = .empty)

/-- A slot's record after a soft reset (R119). A kept archive link keeps its extent too until the mount ends (DESIGN CHOICE,
log 56). -/
def slotAfterReset (v : Slot) : Slot :=
  match v.state with
  | .empty | .filling => { v with state := .empty, pins := 0, info := none, link := none }
  | .saving => { v with state := .held, pins := 0 }
  | .held | .saved | .damaged => { v with pins := 0 }

/-- The Page Store after a soft reset: slots by R119, the list without the slots that became EMPTY, the clock kept, the
interval channel stopped (R115). -/
def storeAfterReset (p : PageStore) : PageStore :=
  let slots := p.slots.map slotAfterReset
  { slots, lesson := p.lesson.filter (fun n => decide ((slots.get n).state ≠ .empty)), clock := p.clock,
    interval := Interval.reset }

/-! ## The lesson list -/

/-- Places in the lesson list (R110). -/
def lessonPlaces : Nat := 23

/-- The list without the entry at a position (R112, R113). -/
def withoutPosition (list : List (Fin 24)) (i : Nat) : List (Fin 24) := list.eraseIdx i

/-- The list with a slot placed at a position (R111, R113). -/
def withInserted (list : List (Fin 24)) (i : Nat) (n : Fin 24) : List (Fin 24) := list.take i ++ n :: list.drop i

/-- The state with another lesson list. -/
def State.setLesson (s : State) (list : List (Fin 24)) : State := s.withStore { s.store with lesson := list }

/-- A slot joins the end of the lesson list (R103, R138). -/
def appendLesson (n : Fin 24) (s : State) : State := s.setLesson (s.store.lesson ++ [n])

/-- DELETE_SLOT (R106). -/
def takeDeleteSlot (l : Link) (tag : Byte) (payload : List Byte) (s : State) : State :=
  match payload with
  | [number] =>
    match readBelow 24 number.toNat with
    | none => refuse l tag 0x62#8 .badArgument s
    | some n =>
      let v := s.slot n
      if halted s then refuse l tag 0x62#8 .halted s
      else if v.state = .empty then refuse l tag 0x62#8 .slotEmpty s
      else if v.state = .filling then refuse l tag 0x62#8 .slotBusy s
      else if 0 < v.pins then refuse l tag 0x62#8 .slotInUse s
      else respond l tag 0x62#8 .ok [] (emptySlot n s)
  | _ => refuse l tag 0x62#8 .badLength s

/-- SET_CLOCK (R97). -/
def takeSetClock (l : Link) (tag : Byte) (payload : List Byte) (s : State) : State :=
  match payload with
  | [b0, b1, b2, b3] =>
    let clock := read4 b0 b1 b2 b3
    respond l tag 0x60#8 .ok (num4 clock) (s.withStore { s.store with clock := clock })
  | _ => refuse l tag 0x60#8 .badLength s

/-- READ_LESSON (R110): the length, then each slot with its state. -/
def takeReadLesson (l : Link) (tag : Byte) (_payload : List Byte) (s : State) : State :=
  respond l tag 0x65#8 .ok
    (num1 s.store.lesson.length ++ s.store.lesson.flatMap fun n => num1 n.val ++ num1 (s.slot n).state.code) s

/-- LESSON_INSERT (R111). -/
def takeLessonInsert (l : Link) (tag : Byte) (payload : List Byte) (s : State) : State :=
  match payload with
  | [number, position] =>
    match readLessonSlot number with
    | none => refuse l tag 0x66#8 .badArgument s
    | some n =>
      let list := s.store.lesson
      if (s.slot n).state = .empty then refuse l tag 0x66#8 .slotEmpty s
      else if lessonPlaces ≤ list.length then refuse l tag 0x66#8 .lessonFull s
      else if list.contains n then refuse l tag 0x66#8 .alreadyInLesson s
      else
        let i := clampNat position.toNat 0 list.length
        s.setLesson (withInserted list i n)
          |> respond l tag 0x66#8 (if outside position.toNat 0 list.length then .clamped else .ok)
              (num1 i ++ num1 (list.length + 1))
  | _ => refuse l tag 0x66#8 .badLength s

/-- LESSON_REMOVE (R112). -/
def takeLessonRemove (l : Link) (tag : Byte) (payload : List Byte) (s : State) : State :=
  match payload with
  | [position] =>
    match s.store.lesson[position.toNat]? with
    | none => refuse l tag 0x67#8 .notFound s
    | some n =>
      respond l tag 0x67#8 .ok (num1 n.val) (s.setLesson (withoutPosition s.store.lesson position.toNat))
  | _ => refuse l tag 0x67#8 .badLength s

/-- LESSON_MOVE (R113). -/
def takeLessonMove (l : Link) (tag : Byte) (payload : List Byte) (s : State) : State :=
  match payload with
  | [origin, target] =>
    match s.store.lesson[origin.toNat]? with
    | none => refuse l tag 0x68#8 .notFound s
    | some n =>
      let rest := withoutPosition s.store.lesson origin.toNat
      let i := clampNat target.toNat 0 rest.length
      s.setLesson (withInserted rest i n)
        |> respond l tag 0x68#8 (if outside target.toNat 0 rest.length then .clamped else .ok) (num1 i)
  | _ => refuse l tag 0x68#8 .badLength s

/-- LESSON_CLEAR (R112). -/
def takeLessonClear (l : Link) (tag : Byte) (_payload : List Byte) (s : State) : State :=
  respond l tag 0x69#8 .ok (num1 s.store.lesson.length) (s.setLesson [])

def execDeleteSlot (l : Link) (tag : Byte) (payload : List Byte) (s : State) : StepOutcome :=
  .next (whenTaken l s (takeDeleteSlot l tag payload s))

def execSetClock (l : Link) (tag : Byte) (payload : List Byte) (s : State) : StepOutcome :=
  .next (whenTaken l s (takeSetClock l tag payload s))

def execReadLesson (l : Link) (tag : Byte) (payload : List Byte) (s : State) : StepOutcome :=
  .next (whenTaken l s (takeReadLesson l tag payload s))

def execLessonInsert (l : Link) (tag : Byte) (payload : List Byte) (s : State) : StepOutcome :=
  .next (whenTaken l s (takeLessonInsert l tag payload s))

def execLessonRemove (l : Link) (tag : Byte) (payload : List Byte) (s : State) : StepOutcome :=
  .next (whenTaken l s (takeLessonRemove l tag payload s))

def execLessonMove (l : Link) (tag : Byte) (payload : List Byte) (s : State) : StepOutcome :=
  .next (whenTaken l s (takeLessonMove l tag payload s))

def execLessonClear (l : Link) (tag : Byte) (payload : List Byte) (s : State) : StepOutcome :=
  .next (whenTaken l s (takeLessonClear l tag payload s))

/-- One tick of a running interval channel (R114); the expiry at 0 is INTERVAL_EXPIRY (log 47). -/
def tickInterval (c : Interval) : Interval := if c.running then { c with remaining := c.remaining - 1 } else c

/-- LESSON_CLOCK_TICK (R97, R114). The ticks begin when STARTING ends. -/
def execLessonClockTick (s : State) : StepOutcome :=
  .next (if s.starting then s
    else s.withStore { s.store with clock := wrapSucc s.store.clock, interval := tickInterval s.store.interval })

end Sys2Proof.Machine
end

