-- ==== Sys2Proof/Machine/Mover.lean ====
section
/-!
DEFINITION. The Page Mover (R98 to R101), capture (R102, R103), and the interval channel's commands and expiry (R114,
R115).
-/

namespace Sys2Proof.Machine

/-- Places in the copy queue (R98). -/
def moverPlaces : Nat := 4

/-- The ring buffers the Page Mover's requests pin (R14). -/
def moverRingPins (m : Mover) : List (Fin 4) :=
  m.queue.filterMap fun r => match r.source with
    | .ring b => some b
    | .slot0 => none

/-- The head request is started when no copy is running and the part is not HALTED (R100). -/
def startCopy (s : State) : State :=
  if !s.mover.running && !s.mover.queue.isEmpty && !halted s then s.withMover { s.mover with running := true } else s

/-- A request joins the tail of the queue. -/
def enqueueCopy (r : CopyRequest) (s : State) : State := s.withMover { s.mover with queue := s.mover.queue ++ [r] }

/-- A request is queued with its source pinned, or refused (none): the queue is full, or the ring declines (R99). The
caller's `fillSlot` places the target's pin in the same step. -/
def queueCopy (kind : CopyKind) (fromRing : Bool) (target : Fin 24) (cause : CopyCause) (s : State) :
    Option (CopySource × State) :=
  if moverPlaces ≤ s.mover.queue.length then none
  else if fromRing then
    match ringGrant s.ring (moverRingPins s.mover) with
    | none => none
    | some b => some (.ring b, enqueueCopy ⟨kind, .ring b, target, cause⟩ (s.withRing (ringPin b s.ring)))
  else some (.slot0, enqueueCopy ⟨kind, .slot0, target, cause⟩ (slotPin 0 s))

/-- The content a copy reads. -/
def copyContent (s : State) : CopySource → Mem
  | .ring b => (s.ring.buffers.get b).content
  | .slot0 => (s.slot 0).content

/-- The source pin of a request released (R100, R101). -/
def releaseSource (c : CopySource) (s : State) : State :=
  match c with
  | .ring b => s.withRing (ringUnpin b s.ring)
  | .slot0 => slotUnpin 0 s

/-- The head request leaves the queue and no copy runs. -/
def dropHead (s : State) : State := s.withMover { queue := s.mover.queue.tail, running := false }

/-- CAPTURE_DONE to the issuer, or for the interval channel to its owner, and to the other link by its mask (R103, R115). -/
def postCaptureDone (r : CopyRequest) (done : Bool) (s : State) : State :=
  match r.cause with
  | .command l tag => postIssued (.captureDone tag r.target done false) l s
  | .interval => postFor (.captureDone 0#8 r.target done true) s.store.interval.owner s

/-- A freeze copy succeeded: every COPYING record becomes READY (R69). -/
def freezeCopied (s : State) : State :=
  let one : FreezeRecord → FreezeRecord
    | .copying l tag => .ready l tag
    | r => r
  s.withComp { s.comp with freeze := ⟨one s.comp.freeze.pane0, one s.comp.freeze.pane1⟩ }

/-- One pane's record after a failed freeze copy: COPYING becomes NONE with FROZEN FAILED, output frame number 0 (R69). -/
def freezeFailedPane (q : Pane) (s : State) : State :=
  match s.comp.freeze.get q with
  | .copying l tag =>
    s.withComp { s.comp with freeze := s.comp.freeze.set q .none } |> postTo (.frozen q .failed 0 tag) l
  | _ => s

/-- A freeze copy failed (R69). -/
def freezeFailed (s : State) : State := s |> freezeFailedPane .zero |> freezeFailedPane .one

/-- COPY_COMPLETE (R100): the target becomes HELD with the source's page, the pins are released, the request leaves the
queue, CAPTURE_DONE or the freeze success follows, and the next request is started. -/
def execCopyComplete (s : State) : StepOutcome :=
  match s.mover.running, s.mover.queue with
  | true, r :: _ =>
    .next (s.setSlot r.target { s.slot r.target with state := .held, content := copyContent s r.source }
      |> releaseSource r.source |> slotUnpin r.target |> dropHead
      |> (match r.kind with
          | .capture => postCaptureDone r true
          | .freeze => freezeCopied)
      |> startCopy)
  | _, _ => .next s

/-- The fault of a failed copy (R101). -/
def raiseCopyFault (c : CopySource) (s : State) : State :=
  match c with
  | .ring b => raiseInternal .dramUncorrectable (.ring b) s
  | .slot0 => damageSlot 0 s

/-- COPY_FAILED (R101): the target becomes EMPTY and leaves the list, the pins are released, the request leaves the queue,
the fault is raised, CAPTURE_DONE FAILED or the freeze failure follows, and the next request is started. -/
def execCopyFailed (s : State) : StepOutcome :=
  match s.mover.running, s.mover.queue with
  | true, r :: _ =>
    .next (s |> emptySlot r.target |> releaseSource r.source |> slotUnpin r.target |> dropHead
      |> raiseCopyFault r.source
      |> (match r.kind with
          | .capture => postCaptureDone r false
          | .freeze => freezeFailed)
      |> startCopy)
  | _, _ => .next s

/-! ## Capture -/

/-- The view recorded with a page: the view pane's in the READ_VIEW snapshot, or the default for NONE (R103). -/
def captureView (s : State) : Option Pane → View
  | some q => (s.view.snapshot.panes.get q).view
  | none => View.reset

/-- The content fields of a captured page (R103). -/
def captureInfo (c : CopySource) (q : Option Pane) (s : State) : SlotInfo :=
  match c with
  | .ring b => { origin := .capture, time := s.store.clock, profile := s.cond.bufferProfile.get b, view := captureView s q }
  | .slot0 =>
    { origin := .capture, time := ((s.slot 0).info.map (·.time)).getD 0, profile := ((s.slot 0).info.map (·.profile)).getD 0,
      view := captureView s q }

/-- A capture that the Page Mover accepts: queued, the target FILLING with its record written, and with the append flag in
the list (R99, R103). None when the Page Mover refuses. -/
def acceptCapture (live : Bool) (target : Fin 24) (append : Bool) (q : Option Pane) (cause : CopyCause) (s : State) :
    Option State :=
  match queueCopy .capture live target cause s with
  | none => none
  | some (c, t) =>
    let t := fillSlot target (captureInfo c q s) t
    some (startCopy (if append then appendLesson target t else t))

/-- CAPTURE's target operand: a lesson slot, or ANY as 0xFF (R102, R182). -/
def readCaptureTarget (b : Byte) : Option (Option (Fin 24)) :=
  if b = 0xFF#8 then some none else (readLessonSlot b).map some

/-- CAPTURE's view pane operand: 0, 1, or NONE as 0xFF (R102, R182). -/
def readCapturePane (b : Byte) : Option (Option Pane) :=
  if b = 0xFF#8 then some none else (readPane b).map some

/-- The target slot of CAPTURE, or why there is none (R102, check 6). -/
def captureTarget (target : Option (Fin 24)) (s : State) : Except Result (Fin 24) :=
  match target with
  | none => match lowestEmpty s with
    | some n => .ok n
    | none => .error .noFreeSlot
  | some n => if (s.slot n).state = .empty then .ok n else .error .slotOccupied

/-- CAPTURE's checks 3 to 7 and its effect (R102, R103). `live` says LIVE and not FREEZE. -/
def captureChecked (l : Link) (tag : Byte) (live : Bool) (target : Option (Fin 24)) (append : Bool) (q : Option Pane)
    (s : State) : State :=
  if halted s then refuse l tag 0x61#8 .halted s
  else if !live && !hasContent (s.slot 0).state then refuse l tag 0x61#8 .slotEmpty s
  else if append && decide (lessonPlaces ≤ s.store.lesson.length) then refuse l tag 0x61#8 .lessonFull s
  else match captureTarget target s with
    | .error r => refuse l tag 0x61#8 r s
    | .ok n =>
      match acceptCapture live n append q (.command l tag) s with
      | none => refuse l tag 0x61#8 .moverBusy s
      | some t => respond l tag 0x61#8 .accepted (num1 n.val) t

/-- CAPTURE (R102, R103): source LIVE 0 or FREEZE 1, target, append flag, view pane. -/
def takeCapture (l : Link) (tag : Byte) (payload : List Byte) (s : State) : State :=
  match payload with
  | [source, target, append, pane] =>
    match readFlag source, readCaptureTarget target, readFlag append, readCapturePane pane with
    | some frozen, some target, some append, some q => captureChecked l tag (!frozen) target append q s
    | _, _, _, _ => refuse l tag 0x61#8 .badArgument s
  | _ => refuse l tag 0x61#8 .badLength s

def execCapture (l : Link) (tag : Byte) (payload : List Byte) (s : State) : StepOutcome :=
  .next (whenTaken l s (takeCapture l tag payload s))

/-! ## The interval channel -/

/-- The state with another interval record. -/
def State.setIntervalRecord (s : State) (c : Interval) : State := s.withStore { s.store with interval := c }

/-- SET_INTERVAL (R114). -/
def takeSetInterval (l : Link) (tag : Byte) (payload : List Byte) (s : State) : State :=
  match payload with
  | [p0, p1, mode] =>
    match readIntervalMode mode with
    | none => refuse l tag 0x6A#8 .badArgument s
    | some m =>
      let period := clampNat (read2 p0 p1) 1 3600
      s.setIntervalRecord { running := true, period := period, mode := m, remaining := period, owner := some l }
        |> respond l tag 0x6A#8 (if outside (read2 p0 p1) 1 3600 then .clamped else .ok) []
  | _ => refuse l tag 0x6A#8 .badLength s

/-- STOP_INTERVAL (R114). -/
def takeStopInterval (l : Link) (tag : Byte) (_payload : List Byte) (s : State) : State :=
  let c := s.store.interval
  if c.running then
    s.setIntervalRecord { c with running := false } |> respond l tag 0x6B#8 .ok []
      |> postIssued (.intervalStopped .command) l
  else respond l tag 0x6B#8 .ok [] s

def execSetInterval (l : Link) (tag : Byte) (payload : List Byte) (s : State) : StepOutcome :=
  .next (whenTaken l s (takeSetInterval l tag payload s))

def execStopInterval (l : Link) (tag : Byte) (payload : List Byte) (s : State) : StepOutcome :=
  .next (whenTaken l s (takeStopInterval l tag payload s))

/-- An ACTIVE override with the pane action HOLD or BLANK (R90, R115). -/
def holdsPanes (o : Override) : Bool := o.active && decide (o.record.paneAction ≠ .none)

/-- The reason an expiry is a skip, or the capture it makes (R115). -/
def intervalCapture (s : State) : Except SkipReason State :=
  if halted s then .error .halted
  else if s.guard.overrides.data.any holdsPanes then .error .override
  else if lessonPlaces ≤ s.store.lesson.length then .error .lessonFull
  else match lowestEmpty s with
    | none => .error .noSlot
    | some n =>
      match acceptCapture true n true (some .zero) .interval s with
      | none => .error .moverBusy
      | some t => .ok t

/-- The channel at its expiry: ONCE stops itself with INTERVAL_STOPPED, REPEAT reloads (R115). -/
def reloadInterval (s : State) : State :=
  let c := s.store.interval
  match c.mode with
  | .once => s.setIntervalRecord { c with running := false } |> postFor (.intervalStopped .once) c.owner
  | .repeating => s.setIntervalRecord { c with remaining := c.period }

/-- INTERVAL_EXPIRY (R115): a running channel whose count has reached 0 expires. -/
def execIntervalExpiry (s : State) : StepOutcome :=
  let c := s.store.interval
  if c.running ∧ c.remaining = 0 then
    let s := reloadInterval s
    match intervalCapture s with
    | .ok t => .next t
    | .error reason => .next (postFor (.captureSkipped reason s.store.clock c.mode) c.owner s)
  else .next s

end Sys2Proof.Machine
end

