-- ==== Sys2Proof/Machine/View.lean ====
section
/-!
DEFINITION. The View Unit (R40 to R57): windows, the scaler's arithmetic, the work at an output frame start, and the view
commands.
-/

namespace Sys2Proof.Machine

/-! ## Windows -/

/-- The window width of a zoom factor (R41). -/
def windowW (z : Nat) : Nat := 262144 / z / 8 * 8

/-- The window height of a zoom factor (R41). -/
def windowH (z : Nat) : Nat := 3 * windowW z / 4

/-- A coordinate of the centre clamped so that a window of size `w` stays inside `0 .. full` (R42). -/
def clampCentre (full w : Nat) (c : Int) : Nat := (clampInt c (w / 2 : Nat) ((full : Int) - (w / 2 : Nat))).toNat

/-- A view with its centre, moved by (dx, dy), clamped against the window of its Z (R42, R48). -/
def moveCentre (dx dy : Int) (v : View) : View :=
  { v with cx := clampCentre 4096 (windowW v.z) (v.cx + dx), cy := clampCentre 3072 (windowH v.z) (v.cy + dy) }

/-- A view with its centre clamped (R42). -/
def clampView (v : View) : View := moveCentre 0 0 v

/-- The window of a view: x0, y0, w, h (R41, R42). -/
structure Window where
  x0 : Nat
  y0 : Nat
  w : Nat
  h : Nat
deriving DecidableEq, Repr

def windowOf (v : View) : Window :=
  { x0 := v.cx - windowW v.z / 2, y0 := v.cy - windowH v.z / 2, w := windowW v.z, h := windowH v.z }

/-- The chroma window of a luma window (R43). -/
def chromaWindow (k : Window) : Window := { x0 := k.x0 / 2, y0 := k.y0 / 2, w := k.w / 2, h := k.h / 2 }

/-- The plane coordinates of window column `a` and row `b`; rotation 180 mirrors within the window (R44). -/
def windowPoint (k : Window) (r : Rotation) (a b : Nat) : Nat × Nat :=
  match r with
  | .deg0 => (k.x0 + a, k.y0 + b)
  | .deg180 => (k.x0 + k.w - 1 - a, k.y0 + k.h - 1 - b)

/-! ## The scaler -/

/-- The step that walks `w` samples over a target of `t` (R46). -/
def scalerStep (w t : Nat) : Nat := w * 65536 / t

/-- The position of output column or row `u` (R46). -/
def scalerPosition (w t u : Nat) : Nat :=
  let step := scalerStep w t
  (clampInt ((u * step + step / 2 : Nat) - 32768) 0 ((w - 1) * 65536 : Nat)).toNat

/-- The output of the four samples with the fractions fx and fy (R47). -/
def interpolate (a b c d fx fy : Nat) : Nat :=
  (a * (256 - fx) * (256 - fy) + b * fx * (256 - fy) + c * (256 - fx) * fy + d * fx * fy + 32768) / 65536

/-- The scaler's output at (u, v) of a target tw x th, over a w x h window whose sample at column a and row b is
`sample a b`; a neighbour beyond the edge repeats the edge (R46, R47). -/
def scaled (sample : Nat → Nat → Nat) (w h tw th u v : Nat) : Nat :=
  let px := scalerPosition w tw u
  let py := scalerPosition h th v
  let xi := px / 65536
  let yi := py / 65536
  let xn := min (xi + 1) (w - 1)
  let yn := min (yi + 1) (h - 1)
  interpolate (sample xi yi) (sample xn yi) (sample xi yn) (sample xn yn) (px % 65536 / 256) (py % 65536 / 256)

/-! ## The output frame start -/

/-- One step of Z toward a target without passing it (R50). -/
def stepZ (z target step : Nat) : Nat :=
  if z < target then min (z + step) target else max (z - step) target

/-- Step 1 of R48: a delivered view replaces the view and stops the ramp. -/
def deliverView (q : Pane) (delivered : Option View) (u : ViewUnit) : ViewUnit :=
  match delivered with
  | some v => { u with views := u.views.set q v, ramps := u.ramps.set q { u.ramps.get q with running := false } }
  | none => u

/-- Steps 2 to 5 of R48. -/
def advanceView (q : Pane) (u : ViewUnit) : ViewUnit :=
  let p := u.pending.get q
  let r := u.ramps.get q
  let v := u.views.get q
  let v := { v with rotation := p.rotation.getD v.rotation,
                    z := if r.running then stepZ v.z r.target r.step else v.z }
  { u with views := u.views.set q (moveCentre p.dx p.dy v) }

/-- Step 7 of R48. -/
def clearPending (q : Pane) (u : ViewUnit) : ViewUnit := { u with pending := u.pending.set q ⟨0, 0, none⟩ }

/-- Step 6 of R48: a ramp at its target stops with RAMP_DONE (R50). -/
def finishRamp (q : Pane) (s : State) : State :=
  let r := s.view.ramps.get q
  let z := (s.view.views.get q).z
  if r.running ∧ z = r.target then
    s.withView { s.view with ramps := s.view.ramps.set q { r with running := false } }
      |> postFor (.rampDone q z r.tag s.comp.frameCounter) r.issuer
  else s

/-- Steps 1 to 7 of R48 for one pane. -/
def updatePane (q : Pane) (delivered : Option View) (s : State) : State :=
  let s := s.withView (advanceView q (deliverView q delivered s.view)) |> finishRamp q
  s.withView (clearPending q s.view)

/-- One pane's part of the snapshot (R54). -/
def paneSnapshot (v : View) (r : Ramp) : PaneSnapshot :=
  let k := windowOf v
  { view := v, x0 := k.x0, y0 := k.y0, w := k.w, h := k.h, running := r.running, target := r.target, step := r.step }

/-- Step 8 of R48: the READ_VIEW snapshot is taken. -/
def takeSnapshot (s : State) : State :=
  let u := s.view
  s.withView { u with snapshot := ⟨s.comp.frameCounter,
    ⟨paneSnapshot u.views.pane0 u.ramps.pane0, paneSnapshot u.views.pane1 u.ramps.pane1⟩⟩ }

/-- The View Unit's work at an output frame start (R48). -/
def updateViews (delivered : PerPane (Option View)) (s : State) : State :=
  s |> updatePane .zero delivered.pane0 |> updatePane .one delivered.pane1 |> takeSnapshot

/-! ## Commands -/

/-- ZOOM_TO (R49): pane, target Z, step. The length is checked before the pane (log 54). -/
def takeZoomTo (l : Link) (tag : Byte) (payload : List Byte) (s : State) : State :=
  match payload with
  | [pane, z0, z1, step] =>
    match readPane pane with
    | none => refuse l tag 0x30#8 .badArgument s
    | some q =>
      let r : Ramp := { running := true, target := clampNat (read2 z0 z1) 64 512, step := clampNat step.toNat 1 64,
                        issuer := some l, tag := tag }
      s.withView { s.view with ramps := s.view.ramps.set q r }
        |> respond l tag 0x30#8
            (if outside (read2 z0 z1) 64 512 || outside step.toNat 1 64 then .clamped else .accepted) []
  | _ => refuse l tag 0x30#8 .badLength s

/-- An offset clamped, added and the sum clamped (R52), with whether a clamp changed it. -/
def addOffset (limit : Int) (pending v : Int) : Int × Bool :=
  let c := clampInt v (-limit) limit
  let sum := clampInt (pending + c) (-limit) limit
  (sum, decide (c ≠ v ∨ sum ≠ pending + c))

/-- PAN_BY (R52): pane, dx, dy. The length is checked before the pane (log 54). -/
def takePanBy (l : Link) (tag : Byte) (payload : List Byte) (s : State) : State :=
  match payload with
  | [pane, x0, x1, y0, y1] =>
    match readPane pane with
    | none => refuse l tag 0x31#8 .badArgument s
    | some q =>
      let p := s.view.pending.get q
      let dx := addOffset 4096 p.dx (readSigned2 x0 x1)
      let dy := addOffset 3072 p.dy (readSigned2 y0 y1)
      s.withView { s.view with pending := s.view.pending.set q { p with dx := dx.1, dy := dy.1 } }
        |> respond l tag 0x31#8 (if dx.2 || dy.2 then .clamped else .ok) []
  | _ => refuse l tag 0x31#8 .badLength s

/-- SET_ROTATION (R53): pane, rotation. The length is checked before the values (log 54). -/
def takeSetRotation (l : Link) (tag : Byte) (payload : List Byte) (s : State) : State :=
  match payload with
  | [pane, rotation] =>
    match readPane pane, readRotation rotation with
    | some q, some r =>
      s.withView { s.view with pending := s.view.pending.set q { s.view.pending.get q with rotation := some r } }
        |> respond l tag 0x32#8 .ok []
    | _, _ => refuse l tag 0x32#8 .badArgument s
  | _ => refuse l tag 0x32#8 .badLength s

/-- One pane of the snapshot, in the order of the table of R54. -/
def PaneSnapshot.bytes (p : PaneSnapshot) : List Byte :=
  p.view.bytes ++ num2 p.x0 ++ num2 p.y0 ++ num2 p.w ++ num2 p.h ++ flag p.running ++ num2 p.target ++ num1 p.step

/-- READ_VIEW (R54). -/
def takeReadView (l : Link) (tag : Byte) (_payload : List Byte) (s : State) : State :=
  let k := s.view.snapshot
  respond l tag 0x33#8 .ok (num4 k.frameNumber ++ k.panes.pane0.bytes ++ k.panes.pane1.bytes) s

def execZoomTo (l : Link) (tag : Byte) (payload : List Byte) (s : State) : StepOutcome :=
  .next (whenTaken l s (takeZoomTo l tag payload s))

def execPanBy (l : Link) (tag : Byte) (payload : List Byte) (s : State) : StepOutcome :=
  .next (whenTaken l s (takePanBy l tag payload s))

def execSetRotation (l : Link) (tag : Byte) (payload : List Byte) (s : State) : StepOutcome :=
  .next (whenTaken l s (takeSetRotation l tag payload s))

def execReadView (l : Link) (tag : Byte) (payload : List Byte) (s : State) : StepOutcome :=
  .next (whenTaken l s (takeReadView l tag payload s))

end Sys2Proof.Machine
end

