-- ==== Sys2Proof/Machine/Compositor.lean ====
section
/-!
DEFINITION. The Compositor (R58 to R78): staged sets and applies, freeze and unfreeze, the work at an output frame start in
the eight steps of R61, late lines, and the presentation commands.
-/

namespace Sys2Proof.Machine

/-! ## Staged sets -/

/-- The state with the Compositor's staged set of a link replaced. -/
def State.setStaged (s : State) (l : Link) (v : Option StagedSet) : State :=
  s.withComp { s.comp with staged := s.comp.staged.set l v }

/-- A staged set as it opens: the active set with the snapshot's views, every mark clear (R62). -/
def openedSet (s : State) : StagedSet :=
  { layout := s.comp.active.layout, sources := s.comp.active.sources,
    views := ⟨s.view.snapshot.panes.pane0.view, s.view.snapshot.panes.pane1.view⟩,
    layoutMark := false, sourceMarks := ⟨false, false⟩, viewMarks := ⟨false, false⟩ }

/-- A link's staged set, opened if it is closed (R62). -/
def stagedOrOpened (l : Link) (s : State) : StagedSet := (s.comp.staged.get l).getD (openedSet s)

/-- STAGE_LAYOUT (R62). The length is checked before the layout (log 54). -/
def takeStageLayout (l : Link) (tag : Byte) (payload : List Byte) (s : State) : State :=
  match payload with
  | [v] =>
    match readLayout v with
    | none => refuse l tag 0x40#8 .badArgument s
    | some layout =>
      s.setStaged l (some { stagedOrOpened l s with layout := layout, layoutMark := true }) |> respond l tag 0x40#8 .ok []
  | _ => refuse l tag 0x40#8 .badLength s

/-- The fields STAGE_PANE's presence set names, as far as the payload holds them (R63, R182). -/
structure PaneFields where
  source : Option (Byte × Byte)
  z : Option Nat
  cx : Option Nat
  cy : Option Nat
  rotation : Option Byte
  /-- The payload holds the bytes of the fields named, and no other. -/
  fits : Bool
deriving DecidableEq, Repr

/-- Take a two-byte field, if it is named. -/
def takeTwo (named : Bool) (w : Bool × List Byte) : Option (Byte × Byte) × Bool × List Byte :=
  if named then
    match w.2 with
    | b0 :: b1 :: rest => (some (b0, b1), w.1, rest)
    | _ => (none, false, [])
  else (none, w)

/-- Take a one-byte field, if it is named. -/
def takeOne (named : Bool) (w : Bool × List Byte) : Option Byte × Bool × List Byte :=
  if named then
    match w.2 with
    | b :: rest => (some b, w.1, rest)
    | [] => (none, false, [])
  else (none, w)

/-- The fields read in listed order from the payload after the presence set; bits 5 to 7 are ignored (R182). -/
def readPaneFields (presence : Byte) (values : List Byte) : PaneFields :=
  let number (p : Option (Byte × Byte)) : Option Nat := p.map fun v => read2 v.1 v.2
  let source := takeTwo (presence.getLsbD 0) (true, values)
  let z := takeTwo (presence.getLsbD 1) source.2
  let cx := takeTwo (presence.getLsbD 2) z.2
  let cy := takeTwo (presence.getLsbD 3) cx.2
  let rotation := takeOne (presence.getLsbD 4) cy.2
  { source := source.1, z := number z.1, cx := number cx.1, cy := number cy.1, rotation := rotation.1,
    fits := rotation.2.1 && rotation.2.2.isEmpty }

/-- Whether any view field is present (R63). -/
def PaneFields.namesView (f : PaneFields) : Bool := f.z.isSome || f.cx.isSome || f.cy.isSome || f.rotation.isSome

/-- The staged view with the fields present written (R63), before the clamps. -/
def PaneFields.written (f : PaneFields) (rotation : Option Rotation) (v : View) : View :=
  { z := f.z.getD v.z, cx := f.cx.getD v.cx, cy := f.cy.getD v.cy, rotation := rotation.getD v.rotation }

/-- Z clamped to 64 to 512, then the centre clamped against the window of that Z (R42, R63). -/
def clampWhole (v : View) : View := clampView { v with z := clampNat v.z 64 512 }

/-- An accepted STAGE_PANE (R63). -/
def stagePane (l : Link) (tag : Byte) (q : Pane) (source : Option PaneSource) (f : PaneFields) (rotation : Option Rotation)
    (s : State) : State :=
  let g := stagedOrOpened l s
  let g := match source with
    | some p => { g with sources := g.sources.set q p, sourceMarks := g.sourceMarks.set q true }
    | none => g
  let wanted := f.written rotation (g.views.get q)
  let v := if f.namesView then clampWhole wanted else g.views.get q
  let g := if f.namesView then { g with views := g.views.set q v, viewMarks := g.viewMarks.set q true } else g
  s.setStaged l (some g)
    |> respond l tag 0x41#8 (if f.namesView && decide (v ≠ wanted) then .clamped else .ok)
        ((g.sources.get q).bytes ++ v.bytes)

/-- STAGE_PANE (R63), checks in the order of R63's list (log 8). -/
def takeStagePane (l : Link) (tag : Byte) (payload : List Byte) (s : State) : State :=
  match payload with
  | pane :: presence :: values =>
    match readPane pane with
    | none => refuse l tag 0x41#8 .badArgument s
    | some q =>
      let f := readPaneFields presence values
      let source := f.source.bind fun p => readSource p.1 p.2
      let rotation := f.rotation.bind readRotation
      if f.source.isSome ∧ source.isNone then refuse l tag 0x41#8 .badArgument s
      else if f.rotation.isSome ∧ rotation.isNone then refuse l tag 0x41#8 .badArgument s
      else if f.fits then stagePane l tag q source f rotation s
      else refuse l tag 0x41#8 .badLength s
  | _ => refuse l tag 0x41#8 .badLength s

/-- DISCARD_STAGE (R64). -/
def takeDiscardStage (l : Link) (tag : Byte) (_payload : List Byte) (s : State) : State :=
  s.setStaged l none |> respond l tag 0x42#8 .ok []

/-- APPLY (R65): the staged set becomes the pending apply, and a replaced one's issuer is told. -/
def takeApply (l : Link) (tag : Byte) (_payload : List Byte) (s : State) : State :=
  match s.comp.staged.get l with
  | none => refuse l tag 0x43#8 .nothingStaged s
  | some g =>
    let s' := (s.setStaged l none).withComp
      { (s.setStaged l none).comp with pendingApply := some { link := l, tag := tag, staged := g } }
      |> respond l tag 0x43#8 .accepted []
    match s.comp.pendingApply with
    | some old => postTo (.superseded old.tag l) old.link s'
    | none => s'

/-! ## Freeze and unfreeze -/

/-- The state with one pane's freeze record replaced. -/
def State.setFreeze (s : State) (q : Pane) (v : FreezeRecord) : State :=
  s.withComp { s.comp with freeze := s.comp.freeze.set q v }

/-- The state with one pane's unfreeze mark replaced. -/
def State.setUnfreeze (s : State) (q : Pane) (v : Option Link) : State :=
  s.withComp { s.comp with unfreeze := s.comp.unfreeze.set q v }

/-- FROZEN with the outcome WITHDRAWN to the issuer of an earlier FREEZE; its output frame number is free (R68, R70,
log 16). -/
def postWithdrawn (q : Pane) (issuer : Link) (tag : Byte) (s : State) : State :=
  postTo (.frozen q .withdrawn (Config.withdrawnFrame s.freeCount) tag) issuer s.draw

/-- What slot 0's record becomes at a FREEZE from a ring buffer (R104). -/
def freezeInfo (b : Fin 4) (q : Pane) (s : State) : SlotInfo :=
  { origin := .freeze, time := s.store.clock, profile := s.cond.bufferProfile.get b,
    view := (s.view.snapshot.panes.get q).view }

/-- An accepted FREEZE (R68, R104): `t` holds the queued copy from buffer `b`. -/
def acceptFreeze (l : Link) (tag : Byte) (q : Pane) (b : Fin 4) (s t : State) : State :=
  let t := fillSlot 0 (freezeInfo b q s) t |> respond l tag 0x44#8 .accepted []
  let t := match s.comp.freeze.get q with
    | .ready issuer old => postWithdrawn q issuer old t
    | .none | .copying _ _ => t
  ((t.setFreeze q (.copying l tag)).setUnfreeze q none) |> startCopy

/-- FREEZE (R68, R104). -/
def takeFreeze (l : Link) (tag : Byte) (payload : List Byte) (s : State) : State :=
  match payload with
  | [pane] =>
    match readPane pane with
    | none => refuse l tag 0x44#8 .badArgument s
    | some q =>
      if halted s then refuse l tag 0x44#8 .halted s
      else if 0 < (s.slot 0).pins then refuse l tag 0x44#8 .slotInUse s
      else match queueCopy .freeze true 0 (.command l tag) s with
        | some (.ring b, t) => acceptFreeze l tag q b s t
        | some (.slot0, _) | none => refuse l tag 0x44#8 .moverBusy s
  | _ => refuse l tag 0x44#8 .badLength s

/-- UNFREEZE (R70). -/
def takeUnfreeze (l : Link) (tag : Byte) (payload : List Byte) (s : State) : State :=
  match payload with
  | [pane] =>
    match readPane pane with
    | none => refuse l tag 0x45#8 .badArgument s
    | some q =>
      let t := respond l tag 0x45#8 .ok [] s
      let t := match s.comp.freeze.get q with
        | .copying issuer old | .ready issuer old => (postWithdrawn q issuer old t).setFreeze q .none
        | .none => t
      t.setUnfreeze q (some l)
  | _ => refuse l tag 0x45#8 .badLength s

/-! ## The output frame start, steps 3 to 5 of R61 -/

/-- A pane the layout gives a target rectangle (R58). -/
def isShown (layout : Layout) (q : Pane) : Bool :=
  match layout, q with
  | _, .zero => true
  | .split, .one => true
  | .single, .one => false

/-- The slot a source refers to (R58). -/
def sourceSlot : PaneSource → Option (Fin 24)
  | .freeze => some 0
  | .slot n => some n
  | .live | .blank => none

/-- Whether the slot check turns a pane of a set to BLANK (R66, part 2). -/
def failsSlotCheck (s : State) (layout : Layout) (q : Pane) (source : PaneSource) : Bool :=
  isShown layout q && (match sourceSlot source with
    | some n => !hasContent (s.slot n).state
    | none => false)

/-- One item of a merge: the staged one where its mark is set (R66, part 1). -/
def mergeItem {α : Type} (mark : Bool) (staged active : α) : α := if mark then staged else active

/-- Layout and sources after the merge, before the slot check (R66, part 1). -/
def merged (g : StagedSet) (a : PresentationSet) : PresentationSet :=
  { layout := mergeItem g.layoutMark g.layout a.layout
    sources := ⟨mergeItem g.sourceMarks.pane0 g.sources.pane0 a.sources.pane0,
                mergeItem g.sourceMarks.pane1 g.sources.pane1 a.sources.pane1⟩ }

/-- The views an adoption delivers (R66, part 1). -/
def deliveredViews (g : StagedSet) : PerPane (Option View) :=
  ⟨if g.viewMarks.pane0 then some g.views.pane0 else none, if g.viewMarks.pane1 then some g.views.pane1 else none⟩

/-- Adoption of a pending apply: merge, slot check, events (R66); pins follow in settleSlotPins. -/
def adopt (p : PendingApply) (s : State) : State :=
  let m := merged p.staged s.comp.active
  let b0 := failsSlotCheck s m.layout .zero m.sources.pane0
  let b1 := failsSlotCheck s m.layout .one m.sources.pane1
  let sources : PerPane PaneSource := ⟨if b0 then .blank else m.sources.pane0, if b1 then .blank else m.sources.pane1⟩
  let frame := s.comp.frameCounter
  s.withComp { s.comp with active := ⟨m.layout, sources⟩, pendingApply := none }
    |> postTo (.applied p.tag frame b0 b1) p.link
    |> postSubscribed (.presentationChanged .apply frame p.link m.layout sources.pane0 sources.pane1 b0 b1)
        (otherLink p.link)

/-- Whether any override is ACTIVE (R61, R66). -/
def anyActive (g : Guard) : Bool := g.overrides.data.any (·.active)

/-- The apply adopted at this frame start, if one is (R61, step 3). -/
def adoptable (s : State) : Option PendingApply := if anyActive s.guard then none else s.comp.pendingApply

/-- Step 3 of R61. -/
def adoptIfReady (s : State) : State :=
  match adoptable s with
  | some p => adopt p s
  | none => s

/-- The views delivered by step 3 of R61. -/
def delivered (s : State) : PerPane (Option View) :=
  match adoptable s with
  | some p => deliveredViews p.staged
  | none => ⟨none, none⟩

/-- The state with one pane's active source replaced. -/
def State.setSource (s : State) (q : Pane) (v : PaneSource) : State :=
  s.withComp { s.comp with active := { s.comp.active with sources := s.comp.active.sources.set q v } }

/-- PRESENTATION_CHANGED for a freeze switch or an unfreeze (R69, R70, log 17). -/
def changedEvent (cause : PresentationCause) (issuer : Link) (q : Pane) (blanked : Bool) (s : State) : Event :=
  .presentationChanged cause s.comp.frameCounter issuer s.comp.active.layout s.comp.active.sources.pane0
    s.comp.active.sources.pane1 (blanked && decide (q = .zero)) (blanked && decide (q = .one))

/-- A READY pane switched with an outcome (R69). -/
def switchTo (q : Pane) (issuer : Link) (tag : Byte) (source : PaneSource) (outcome : FrozenOutcome) (s : State) : State :=
  let s := (s.setSource q source).setFreeze q .none
  s |> postTo (.frozen q outcome s.comp.frameCounter tag) issuer
    |> postSubscribed (changedEvent .freeze issuer q (decide (outcome = .blanked)) s) (otherLink issuer)

/-- Step 4 of R61 for one pane (R69). -/
def switchPane (q : Pane) (s : State) : State :=
  match s.comp.freeze.get q with
  | .ready issuer tag =>
    match (s.slot 0).state with
    | .held | .damaged | .saving | .saved => switchTo q issuer tag .freeze .switched s
    | .filling => s
    | .empty => switchTo q issuer tag .blank .blanked s
  | .none | .copying _ _ => s

/-- Step 5 of R61 for one pane (R70). -/
def unfreezePane (q : Pane) (s : State) : State :=
  match s.comp.unfreeze.get q with
  | none => s
  | some issuer =>
    let s := s.setUnfreeze q none
    if s.comp.active.sources.get q = .freeze then
      let s := s.setSource q .live
      postIssued (changedEvent .unfreeze issuer q false s) issuer s
    else s

/-- The slot a pane's pin stands on under the active set (R71). -/
def wantedSlotPin (s : State) (q : Pane) : Option (Fin 24) :=
  if isShown s.comp.active.layout q then sourceSlot (s.comp.active.sources.get q) else none

/-- The state with one pane's display record replaced. -/
def State.setDisplay (s : State) (q : Pane) (v : PaneDisplay) : State :=
  s.withComp { s.comp with display := s.comp.display.set q v }

/-- One pane's slot pin follows the set: the new pin is placed and the old one released (R71). -/
def settleSlotPin (q : Pane) (s : State) : State :=
  let d := s.comp.display.get q
  let wanted := wantedSlotPin s q
  if d.slotPin = wanted then s
  else
    let s := match wanted with
      | some n => slotPin n s
      | none => s
    let s := match d.slotPin with
      | some n => slotUnpin n s
      | none => s
    s.setDisplay q { d with slotPin := wanted }

/-! ## Steps 7 and 8 of R61 -/

/-- An override applies to a pane when it is ACTIVE and its mask includes the pane (R73). -/
def appliesTo (o : Override) (q : Pane) : Bool :=
  o.active && (match o.record.mask, q with
    | .both, _ => true
    | .pane0, .zero => true
    | .pane0, .one => false
    | .pane1, .one => true
    | .pane1, .zero => false)

/-- Whether a pane action applies to a pane (R73, R90). -/
def actionOn (g : Guard) (a : PaneAction) (q : Pane) : Bool :=
  g.overrides.data.any fun o => appliesTo o q && decide (o.record.paneAction = a)

/-- A shown pane is held: its source is LIVE and a HOLD applies (R73). -/
def isHeld (s : State) (q : Pane) : Bool :=
  isShown s.comp.active.layout q && decide (s.comp.active.sources.get q = .live) && actionOn s.guard .hold q

/-- A shown pane advances: LIVE, neither held nor blanked (R72). -/
def isAdvancing (s : State) (q : Pane) : Bool :=
  isShown s.comp.active.layout q && decide (s.comp.active.sources.get q = .live) && !actionOn s.guard .hold q
    && !actionOn s.guard .blank q

/-- The held pin of a pane that is held and has none yet, by the three cases of R74. -/
def takeHeldPin (q : Pane) (s : State) : State :=
  let d := s.comp.display.get q
  match s.comp.heldBuffer with
  | some b =>
    (s.withRing (ringUnpin? d.currentPin (ringPin b s.ring))).setDisplay q
      { d with held := true, heldPin := true, currentPin := none }
  | none =>
    match d.currentPin with
    | some b =>
      (s.withComp { s.comp with heldBuffer := some b }).setDisplay q
        { d with held := true, heldPin := true, currentPin := none }
    | none =>
      match newest s.ring with
      | some b =>
        ((s.withRing (ringPin b s.ring)).withComp { s.comp with heldBuffer := some b }).setDisplay q
          { d with held := true, heldPin := true }
      | none => s.setDisplay q { d with held := true }

/-- Step 7 of R61 for one pane: a held pane keeps its held pin or takes one (R74). -/
def holdPane (q : Pane) (s : State) : State :=
  if isHeld s q && !(s.comp.display.get q).heldPin then takeHeldPin q s else s

/-- The end of a pane's hold: the held pin is released (R73, R74). -/
def endHold (q : Pane) (s : State) : State :=
  let d := s.comp.display.get q
  if d.held && !isHeld s q then
    let s := if d.heldPin then
        match s.comp.heldBuffer with
        | some b => s.withRing (ringUnpin b s.ring)
        | none => s
      else s
    s.setDisplay q { d with held := false, heldPin := false }
  else s

/-- The current pin of a pane: placed on the newest complete buffer if it advances, and the one of the frame start before
released (R72). -/
def moveCurrentPin (q : Pane) (s : State) : State :=
  let d := s.comp.display.get q
  let next := if isAdvancing s q then newest s.ring else none
  let r := match next with
    | some b => ringPin b s.ring
    | none => s.ring
  (s.withRing (ringUnpin? d.currentPin r)).setDisplay q { d with currentPin := next }

/-- With no held pin left the held buffer becomes none (R74). -/
def settleHeldBuffer (s : State) : State :=
  if s.comp.display.pane0.heldPin || s.comp.display.pane1.heldPin then s
  else s.withComp { s.comp with heldBuffer := none }

/-- A picture from a ring buffer, or NO_FRAME where there is none (R75, R78). -/
def ringShown (shown : Shown) : Option (Fin 4) → Shown × PageRef
  | some b => (shown, .ring b)
  | none => (.noFrame, .none)

/-- What a pane shows for the whole output frame, and the buffer or slot it reads (R73, R75, R78, log 35). A held pane
names its held buffer (R74, R78), from which no samples are fetched (R56; `fetches`, log 58). -/
def paneShown (s : State) (q : Pane) : Shown × PageRef :=
  let d := s.comp.display.get q
  if !isShown s.comp.active.layout q then (.notShown, .none)
  else if actionOn s.guard .blank q then (if d.held then .heldBlank else .overrideBlank, .none)
  else match s.comp.active.sources.get q with
    | .blank => (.blankSource, .none)
    | .freeze => (.picture, .slot 0)
    | .slot n => (.picture, .slot n)
    | .live =>
      if d.held then ringShown .held (if d.heldPin then s.comp.heldBuffer else none)
      else ringShown .picture d.currentPin

/-- A pane's display settled for this output frame (R78). -/
def settleDisplay (q : Pane) (s : State) : State :=
  let v := paneShown s q
  s.setDisplay q { s.comp.display.get q with shown := v.1, page := v.2 }

/-- Step 1 of R61: the frame counter, and a fresh output frame (R60, R77). -/
def countFrame (s : State) : State :=
  s.withComp { s.comp with frameCounter := wrapSucc s.comp.frameCounter, scanning := true, lateLines := [] }

/-- Steps 3 to 5 of R61 with the slot pins of R71. -/
def changeSet (s : State) : State :=
  s |> adoptIfReady |> switchPane .zero |> switchPane .one |> unfreezePane .zero |> unfreezePane .one
    |> settleSlotPin .zero |> settleSlotPin .one

/-- Steps 7 and 8 of R61. -/
def movePins (s : State) : State :=
  s |> holdPane .zero |> holdPane .one |> moveCurrentPin .zero |> moveCurrentPin .one |> endHold .zero |> endHold .one
    |> settleHeldBuffer |> settleDisplay .zero |> settleDisplay .one

/-- OUTPUT_FRAME_START (R60, R61). While STARTING there is none. The override states are read once: no step changes them. -/
def execOutputFrameStart (s : State) : StepOutcome :=
  if s.starting then .next s
  else
    let s := countFrame s
    .next (changeSet s |> updateViews (delivered s) |> movePins)

/-- LATE_LINE (R77): a line of this output frame is replaced; the first of the frame raises OUTPUT_UNDERRUN. -/
def execLateLine (line : Nat) (s : State) : StepOutcome :=
  let c := s.comp
  if c.scanning ∧ line < 1080 ∧ ¬ line ∈ c.lateLines then
    let s := s.withComp { c with underruns := satSucc 65535 c.underruns, lateLines := c.lateLines ++ [line] }
    .next (if c.lateLines.isEmpty then raiseInternal .outputUnderrun .none s else s)
  else .next s

/-- A link reset in the Compositor: its staged set closes and its own pending apply goes (R59, R67). -/
def compositorLinkReset (l : Link) (c : Compositor) : Compositor :=
  { c with staged := c.staged.set l none,
           pendingApply := match c.pendingApply with
             | some p => if p.link = l then none else some p
             | none => none }

/-! ## READ_PRESENTATION -/

/-- What READ_PRESENTATION returns, in the order of the table of R78. The held buffer is an optional field, a presence byte and
the buffer (DEDUCED, log 10). -/
def presentationBytes (l : Link) (c : Compositor) : List Byte :=
  num4 c.frameCounter ++ num1 c.active.layout.code ++ c.active.sources.pane0.bytes ++ c.active.sources.pane1.bytes
    ++ num1 c.display.pane0.shown.code ++ num1 c.display.pane1.shown.code
    ++ c.display.pane0.page.bytes ++ c.display.pane1.page.bytes
    ++ optional 1 (c.heldBuffer.map fun b => num1 b.val)
    ++ optional 2 (c.pendingApply.map fun p => num1 (linkCode p.link) ++ [p.tag])
    ++ flag (c.staged.get l).isSome ++ num1 c.freeze.pane0.code ++ num1 c.freeze.pane1.code
    ++ flag c.unfreeze.pane0.isSome ++ flag c.unfreeze.pane1.isSome ++ num2 c.underruns

/-- READ_PRESENTATION (R78). -/
def takeReadPresentation (l : Link) (tag : Byte) (_payload : List Byte) (s : State) : State :=
  respond l tag 0x46#8 .ok (presentationBytes l s.comp) s

def execStageLayout (l : Link) (tag : Byte) (payload : List Byte) (s : State) : StepOutcome :=
  .next (whenTaken l s (takeStageLayout l tag payload s))

def execStagePane (l : Link) (tag : Byte) (payload : List Byte) (s : State) : StepOutcome :=
  .next (whenTaken l s (takeStagePane l tag payload s))

def execDiscardStage (l : Link) (tag : Byte) (payload : List Byte) (s : State) : StepOutcome :=
  .next (whenTaken l s (takeDiscardStage l tag payload s))

def execApply (l : Link) (tag : Byte) (payload : List Byte) (s : State) : StepOutcome :=
  .next (whenTaken l s (takeApply l tag payload s))

def execFreeze (l : Link) (tag : Byte) (payload : List Byte) (s : State) : StepOutcome :=
  .next (whenTaken l s (takeFreeze l tag payload s))

def execUnfreeze (l : Link) (tag : Byte) (payload : List Byte) (s : State) : StepOutcome :=
  .next (whenTaken l s (takeUnfreeze l tag payload s))

def execReadPresentation (l : Link) (tag : Byte) (payload : List Byte) (s : State) : StepOutcome :=
  .next (whenTaken l s (takeReadPresentation l tag payload s))

end Sys2Proof.Machine
end

