-- ==== Sys2Proof/Machine/Video.lean ====
section
/-!
DEFINITION. What the video port sends (R45, R60, R74, R75, R77), formed from the records that an output frame start settles
(log 42): the sample triple of an output pixel, and which line is sent for a line.
-/

namespace Sys2Proof.Machine

/-- One output sample: Y, Cb, Cr (R75). -/
structure Sample where
  y : Nat
  cb : Nat
  cr : Nat
deriving DecidableEq, Repr

/-- Black (R75). -/
def Sample.black : Sample := ⟨16, 128, 128⟩

/-- The byte of a page as a read returns it: free after an uncorrectable error (R15, R107). DESIGN CHOICE (log 23): each
damaged page has its own free byte at an offset, and nothing is drawn at a read or an output frame start, so the byte is the
same in successive output frames until another free value is drawn. -/
def pageByte (s : State) (p : PageRef) (offset : Nat) : Byte :=
  match p with
  | .none => Config.dramBlank
  | .ring b =>
    let v := s.ring.buffers.get b
    if v.damaged then Config.byteAsRead s.freeCount b.val offset else v.content.read Config.dramBlank offset
  | .slot n =>
    let v := s.slot n
    if v.state = .damaged then Config.byteAsRead s.freeCount (4 + n.val) offset else v.content.read Config.dramBlank offset

/-- A pane's rectangle: x, y, width, height (R45). -/
def paneRect : Layout → Pane → Option (Nat × Nat × Nat × Nat)
  | .single, .zero => some (240, 0, 1440, 1080)
  | .single, .one => none
  | .split, .zero => some (0, 180, 960, 720)
  | .split, .one => some (960, 180, 960, 720)

/-- The scaler's output at pane coordinates (u, v) of a tw x th target, from a page through a view (R43 to R47). -/
def paneSample (s : State) (p : PageRef) (view : View) (tw th u v : Nat) : Sample :=
  let k := windowOf view
  let c := chromaWindow k
  let luma (a b : Nat) : Nat := let q := windowPoint k view.rotation a b; (pageByte s p (4096 * q.2 + q.1)).toNat
  let chroma (base a b : Nat) : Nat :=
    let q := windowPoint c view.rotation a b; (pageByte s p (base + 2048 * q.2 + q.1)).toNat
  { y := scaled luma k.w k.h tw th u v
    cb := scaled (chroma Config.cbBase) c.w c.h (tw / 2) (th / 2) (u / 2) (v / 2)
    cr := scaled (chroma Config.crBase) c.w c.h (tw / 2) (th / 2) (u / 2) (v / 2) }

/-- Whether an output pixel lies in a rectangle. -/
def inRect (r : Nat × Nat × Nat × Nat) (x y : Nat) : Bool :=
  decide (r.1 ≤ x ∧ x < r.1 + r.2.2.1 ∧ r.2.1 ≤ y ∧ y < r.2.1 + r.2.2.2)

/-- The sample a pane gives the pixel (x, y), if its rectangle holds the pixel (R45, R75); a held pane sends its held buffer, whose
pin keeps it (R74). -/
def paneAt (s : State) (q : Pane) (x y : Nat) : Option Sample :=
  match paneRect s.comp.active.layout q with
  | none => none
  | some r =>
    if inRect r x y then
      match (s.comp.display.get q).page with
      | .none => some Sample.black
      | p =>
        some (paneSample s p (s.view.snapshot.panes.get q).view r.2.2.1 r.2.2.2 (x - r.1) (y - r.2.1))
    else none

/-- The sample the output frame holds at (x, y), before any line is replaced (R75). -/
def frameSample (s : State) (x y : Nat) : Sample :=
  match paneAt s .zero x y with
  | some v => v
  | none => (paneAt s .one x y).getD Sample.black

/-- The line whose samples are sent for line `y`: a late line repeats the one sent before it, and none (black) stands
before line 0 (R77). -/
def sentLine (late : List Nat) : Nat → Option Nat
  | 0 => if late.contains 0 then none else some 0
  | y + 1 => if late.contains (y + 1) then sentLine late y else some (y + 1)

/-- What the video port sends at column `x` of line `y`: black until an output frame has been started (R60). -/
def videoSample (s : State) (x y : Nat) : Sample :=
  if s.comp.scanning then
    match sentLine s.comp.lateLines y with
    | some line => frameSample s x line
    | none => Sample.black
  else Sample.black

end Sys2Proof.Machine
end

