-- ==== Sys2Proof/Machine/Export.lean ====
section
/-!
DEFINITION. Exports (R116 to R118, R169): EXPORT, CANCEL_EXPORT, BULK transactions and the stall, and the two reading
commands of the page table (R109).
-/

namespace Sys2Proof.Machine

/-- The stall timer's load in milliseconds (R116). -/
def stallLoad : Nat := 5000

/-- Export bytes of one BULK at most (R117). -/
def bulkLimit : Nat := 4096

/-- The state with a link's export record replaced. -/
def State.setExport (s : State) (l : Link) (v : Option ExportRecord) : State :=
  s.setLink l { s.links.get l with exporting := v }

/-- An active export ends: its pin is released and its record becomes inactive (R117, R118). -/
def endExport (l : Link) (s : State) : State :=
  match (s.links.get l).exporting with
  | some x => (slotUnpin x.slot s).setExport l none
  | none => s

/-- EXPORT (R116). -/
def takeExportSlot (l : Link) (tag : Byte) (payload : List Byte) (s : State) : State :=
  match payload with
  | [number] =>
    match readBelow 24 number.toNat with
    | none => refuse l tag 0x6C#8 .badArgument s
    | some n =>
      if halted s then refuse l tag 0x6C#8 .halted s
      else if (s.links.get l).exporting.isSome then refuse l tag 0x6C#8 .exportActive s
      else if (s.slot n).state = .empty then refuse l tag 0x6C#8 .slotEmpty s
      else if (s.slot n).state = .filling then refuse l tag 0x6C#8 .slotBusy s
      else (slotPin n s).setExport l (some { slot := n, offset := 0, stall := stallLoad })
        |> respond l tag 0x6C#8 .accepted []
  | _ => refuse l tag 0x6C#8 .badLength s

/-- CANCEL_EXPORT (R118). -/
def takeCancelExport (l : Link) (tag : Byte) (_payload : List Byte) (s : State) : State :=
  if (s.links.get l).exporting.isSome then endExport l s |> respond l tag 0x6D#8 .ok []
  else refuse l tag 0x6D#8 .notFound s

def execExportSlot (l : Link) (tag : Byte) (payload : List Byte) (s : State) : StepOutcome :=
  .next (whenTaken l s (takeExportSlot l tag payload s))

def execCancelExport (l : Link) (tag : Byte) (payload : List Byte) (s : State) : StepOutcome :=
  .next (whenTaken l s (takeCancelExport l tag payload s))

/-- The bytes of a slot from an offset on, as a read returns them (R117); free once the slot is DAMAGED (log 23). -/
def slotBytes (s : State) (n : Fin 24) (offset count : Nat) : List Byte :=
  if (s.slot n).state = .damaged then (List.range count).map fun i => pageByte s (.slot n) (offset + i)
  else (s.slot n).content.readRun Config.dramBlank offset count

/-- How many export bytes a BULK that clocks `clocked` bytes delivers (R117). -/
def bulkCount (x : ExportRecord) (clocked : Nat) : Nat := min clocked (min bulkLimit (Config.pageBytes - x.offset))

/-- A BULK that delivers at least one byte: offset, stall timer, and the end of a complete export (R117). -/
def deliver (l : Link) (x : ExportRecord) (count : Nat) (s : State) : State :=
  if x.offset + count = Config.pageBytes then endExport l s |> postTo (.exportDone x.slot) l
  else s.setExport l (some { x with offset := x.offset + count, stall := stallLoad })

/-- The export bytes that a BULK returns in its first `clocked` bytes (R117, R169). -/
def bulkData (l : Link) : OwnData := fun _ clocked s =>
  match (s.links.get l).exporting with
  | none => []
  | some x => slotBytes s x.slot x.offset (bulkCount x clocked)

/-- The end of a BULK (R117, R169): one that a soft reset cut delivers nothing more (R171). -/
def endBulk (l : Link) (clocked : Nat) (t : Transaction) (s : State) : State :=
  match (s.links.get l).exporting with
  | none => s
  | some x =>
    let count := bulkCount x clocked
    if t.cut ∨ count = 0 then s
    else deliver l x count (if (s.slot x.slot).state = .damaged then s.draw else s)

/-- BULK (R117, R169). Its export data is delivered at its end (log 4). -/
def execBulk (l : Link) (moment : Moment Nat) (s : State) : StepOutcome :=
  .next (transact l .bulk moment id (bulkData l) (endBulk l) s)

/-- EXPORT_STALL (R118). -/
def execExportStall (l : Link) (s : State) : StepOutcome :=
  match (s.links.get l).exporting with
  | some x => .next (endExport l s |> postTo (.exportStalled x.slot x.offset) l)
  | none => .next s

/-! ## READ_SLOT and READ_STORE (R109) -/

/-- The panes whose slot pin stands on a slot (R96). -/
def panePins (s : State) (n : Fin 24) : Nat :=
  [s.comp.display.pane0.slotPin, s.comp.display.pane1.slotPin].countP fun p => decide (p = some n)

/-- Whether a Page Mover request reads or writes a slot (R96). -/
def requestUses (n : Fin 24) (r : CopyRequest) : Bool :=
  decide (r.target = n) || (decide (r.source = .slot0) && decide (n = 0))

/-- The Page Mover requests on a slot (R96). -/
def moverPins (s : State) (n : Fin 24) : Nat := s.mover.queue.countP (requestUses n)

/-- The slot a PROGRAM or READ job works on. -/
def jobSlot : Job → Option (Fin 24)
  | .program j => some j.slot
  | .read j => some j.slot
  | .withdraw _ _ | .retire _ _ => none

/-- The PROGRAM and READ jobs on a slot (R96). -/
def jobPins (s : State) (n : Fin 24) : Nat := s.port.queue.countP fun j => decide (jobSlot j = some n)

/-- Whether a link exports a slot (R96). -/
def exports (k : LinkState) (n : Fin 24) : Bool :=
  match k.exporting with
  | some x => decide (x.slot = n)
  | none => false

/-- The exports from a slot (R96). -/
def exportPins (s : State) (n : Fin 24) : Nat := [s.links.panel, s.links.bridge].countP fun k => exports k n

/-- The bytes of an archive link. -/
def ArchiveLink.bytes (k : ArchiveLink) : List Byte := num2 k.extent.val ++ num4 k.seq

/-- What READ_SLOT returns, in the order of R109. -/
def slotRecordBytes (s : State) (n : Fin 24) : List Byte :=
  let v := s.slot n
  num1 v.state.code ++ num1 v.pins ++ num1 (panePins s n) ++ num1 (moverPins s n) ++ num1 (jobPins s n)
    ++ num1 (exportPins s n) ++ optional 13 (v.info.map SlotInfo.bytes) ++ optional 6 (v.link.map ArchiveLink.bytes)
    ++ optional 1 ((s.store.lesson.findIdx? fun m => decide (m = n)).map num1)

/-- READ_SLOT (R109). -/
def takeReadSlot (l : Link) (tag : Byte) (payload : List Byte) (s : State) : State :=
  match payload with
  | [number] =>
    match readBelow 24 number.toNat with
    | none => refuse l tag 0x63#8 .badArgument s
    | some n => respond l tag 0x63#8 .ok (slotRecordBytes s n) s
  | _ => refuse l tag 0x63#8 .badLength s

/-- The interval channel as READ_STORE lists it (R109). -/
def Interval.bytes (c : Interval) : List Byte :=
  flag c.running ++ num1 c.mode.code ++ num2 c.period ++ num2 c.remaining
    ++ optional 1 (c.owner.map fun l => num1 (linkCode l))

/-- One Page Mover request as READ_STORE lists it (R109). -/
def CopyRequest.bytes (r : CopyRequest) : List Byte :=
  num1 r.kind.code ++ r.source.ref.bytes ++ num1 r.target.val ++ num1 r.cause.code

/-- What READ_STORE returns, in the order of the table of R109. -/
def storeBytes (s : State) : List Byte :=
  num4 s.store.clock ++ num1 (emptyCount s) ++ s.store.slots.data.flatMap (fun v => num1 v.state.code)
    ++ num1 s.store.lesson.length ++ s.store.interval.bytes ++ s.mover.queue.flatMap CopyRequest.bytes
    ++ flag s.mover.running

/-- READ_STORE (R109). -/
def takeReadStore (l : Link) (tag : Byte) (_payload : List Byte) (s : State) : State :=
  respond l tag 0x64#8 .ok (storeBytes s) s

def execReadSlot (l : Link) (tag : Byte) (payload : List Byte) (s : State) : StepOutcome :=
  .next (whenTaken l s (takeReadSlot l tag payload s))

def execReadStore (l : Link) (tag : Byte) (payload : List Byte) (s : State) : StepOutcome :=
  .next (whenTaken l s (takeReadStore l tag payload s))

end Sys2Proof.Machine
end

