-- ==== Sys2Proof/Machine/Flash.lean ====
section
/-!
DEFINITION. The lesson flash: addresses (R120), reading, programming and erasing pages, the header record with its check value,
the three words (R121, R184), programs and erases that did not pass, and the entry that four header pages give (R125).
-/

namespace Sys2Proof.Machine

/-! ## Addresses (R120) -/

/-- The flash block that is block `b` of extent `e`. -/
def blockOf (e : Fin 225) (b : Nat) : Nat := Config.extentBlocks * e.val + b

/-- The first byte of a flash page. -/
def pageAddress (block page : Nat) : Nat := (block * Config.pagesPerBlock + page) * Config.flashPage

/-- Data pages of an extent. -/
def dataPages : Nat := 4608

/-- The block of the extent and the page of it that data page `d` is. -/
def dataPlace (d : Nat) : Nat × Nat := (1 + d / 32, d % 32)

/-! ## Pages -/

/-- Byte `i` of a flash page. -/
def flashByte (m : Mem) (block page i : Nat) : Byte := m.read Config.flashBlank (pageAddress block page + i)

/-- A flash page reads as blank (R121, R184). -/
def pageBlank (m : Mem) (block page : Nat) : Bool := m.isBlank Config.flashBlank (pageAddress block page) Config.flashPage

/-- A flash page programmed whole; bytes after those given are 0xFF (R184). -/
def programPage (block page : Nat) (bytes : List Byte) (m : Mem) : Mem :=
  m.writeRun Config.flashBlank (pageAddress block page)
    (bytes ++ List.replicate (Config.flashPage - bytes.length) Config.flashBlank)

/-- Bytes of a flash block. -/
def blockBytes : Nat := Config.flashPage * Config.pagesPerBlock

/-- A flash block erased. -/
def eraseBlock (block : Nat) (m : Mem) : Mem := m.erase (pageAddress block 0) blockBytes

/-! ## The header record (R184) -/

/-- One bit of the CRC-32 with the register taken least significant bit first: 0xEDB88320 is 0x04C11DB7 in that order
(log 45). -/
def crcBit (c : BitVec 32) : BitVec 32 := if c.getLsbD 0 then (c >>> 1) ^^^ 0xEDB88320#32 else c >>> 1

/-- One byte of the CRC-32. -/
def crcByte (c : BitVec 32) (b : Byte) : BitVec 32 :=
  crcBit (crcBit (crcBit (crcBit (crcBit (crcBit (crcBit (crcBit (c ^^^ b.setWidth 32))))))))

/-- The check value over some bytes (R184). -/
def checkValue (bytes : List Byte) : Nat := (~~~ bytes.foldl crcByte 0xFFFFFFFF#32).toNat

/-- The identifying marker of a header record. -/
def headerMarker : List Byte := [0x55#8, 0x4C#8, 0x48#8, 0x52#8]

/-- Bytes 0 to 21 of a header record. -/
def headerFields (h : Header) : List Byte :=
  headerMarker ++ num4 h.seq ++ num1 h.lesson ++ num1 h.position ++ num4 h.time ++ num1 h.profile.val
    ++ num1 h.view.rotation.code ++ num2 h.view.z ++ num2 h.view.cx ++ num2 h.view.cy

/-- The 26 bytes of a header record. -/
def headerBytes (h : Header) : List Byte := headerFields h ++ num4 (checkValue (headerFields h))

/-- The two-byte number at byte `i` of a page. -/
def flashNum2 (m : Mem) (block page i : Nat) : Nat := read2 (flashByte m block page i) (flashByte m block page (i + 1))

/-- The four-byte number at byte `i` of a page. -/
def flashNum4 (m : Mem) (block page i : Nat) : Nat :=
  read4 (flashByte m block page i) (flashByte m block page (i + 1)) (flashByte m block page (i + 2))
    (flashByte m block page (i + 3))

/-- The first `n` bytes of a page. -/
def pageHead (m : Mem) (block page n : Nat) : List Byte := m.readRun Config.flashBlank (pageAddress block page) n

/-- A rotation byte other than 1 is read as 0 (R184). -/
def readRotationByte (b : Byte) : Rotation := if b = 1#8 then .deg180 else .deg0

/-- The header record in page 0 of a header block, if it is valid (R121, R184). The view is held as it stands; a recall
clamps it (log 48). -/
def readHeader (m : Mem) (block : Nat) : Option Header :=
  let seq := flashNum4 m block 0 4
  let lesson := (flashByte m block 0 8).toNat
  let position := (flashByte m block 0 9).toNat
  if pageHead m block 0 4 = headerMarker ∧ flashNum4 m block 0 22 = checkValue (pageHead m block 0 22) ∧ 1 ≤ seq
      ∧ 1 ≤ lesson ∧ position ≤ 22 then
    match readBelow 4 (flashByte m block 0 14).toNat with
    | some profile =>
      some { seq, lesson, position, time := flashNum4 m block 0 10, profile,
             view := { z := flashNum2 m block 0 16, cx := flashNum2 m block 0 18, cy := flashNum2 m block 0 20,
                       rotation := readRotationByte (flashByte m block 0 15) } }
    | none => none
  else none

/-! ## Words (R184) -/

def commitMarker : List Byte := [0x43#8, 0x4D#8, 0x54#8, 0x31#8]

def withdrawMarker : List Byte := [0x57#8, 0x44#8, 0x52#8, 0x31#8]

def retireMarker : List Byte := [0x52#8, 0x54#8, 0x52#8, 0x31#8]

/-- The commit word of a sequence number. -/
def commitWord (seq : Nat) : List Byte := commitMarker ++ num4 seq

/-- Whether page 1 holds the commit word of a sequence number. -/
def holdsCommit (m : Mem) (block seq : Nat) : Bool :=
  decide (pageHead m block 1 4 = commitMarker ∧ flashNum4 m block 1 4 = seq)

/-- Whether page 2 holds the withdraw word. -/
def holdsWithdraw (m : Mem) (block : Nat) : Bool := decide (pageHead m block 2 4 = withdrawMarker)

/-- Whether page 3 holds the retire word. -/
def holdsRetire (m : Mem) (block : Nat) : Bool := decide (pageHead m block 3 4 = retireMarker)

/-- A page of a header block holds its word; a commit word also carries the sequence number of the valid header record (R121,
R184). -/
def holdsWord (m : Mem) (block page : Nat) : Bool :=
  decide (block % Config.extentBlocks = 0) && match page with
    | 1 => (readHeader m block).any fun h => holdsCommit m block h.seq
    | 2 => holdsWithdraw m block
    | 3 => holdsRetire m block
    | _ => false

/-! ## Programs and erases that did not pass -/

/-- Why a page program or a block erase did not end with a pass: power was lost, a soft reset cut it, or it failed or its deadline
expired. -/
inductive Cut where
  | powerLoss
  | softReset
  | failure
deriving DecidableEq, Repr

/-- The rules say that a word page does not hold its word afterwards: any word after a loss of power (R121, R184), the commit
word after a soft reset (R134), and the withdraw and the retire word after a failed or expired program (R140). Of the others they
say nothing (log 22). -/
def Cut.loses : Cut → Nat → Bool
  | .powerLoss, _ => true
  | .softReset, page => decide (page = 1)
  | .failure, page => decide (page ≠ 1)

/-- A page of which only this is known, that it does not hold its word: where its free bytes (log 22) would be the whole word, its
first byte is another. Every other content stays possible. -/
def spoilWord (block page : Nat) (m : Mem) : Mem :=
  if holdsWord m block page then
    m.writeRun Config.flashBlank (pageAddress block page) [~~~ flashByte m block page 0]
  else m

/-- A run of flash whose program or erase did not pass: its bytes are free (R157, log 22). -/
def cutRun (n address count : Nat) (m : Mem) : Mem :=
  m.writeRun Config.flashBlank address ((List.range count).map (Config.flashCutByte n))

/-- A page program did not pass: free bytes, but not the word where the rules say so. -/
def cutPage (cut : Cut) (block page : Nat) (s : State) : State :=
  let m := cutRun s.freeCount (pageAddress block page) Config.flashPage s.flash
  (s.withFlash (if cut.loses page then spoilWord block page m else m)).draw

/-- A block erase did not pass. -/
def cutBlock (block : Nat) (s : State) : State :=
  (s.withFlash (cutRun s.freeCount (pageAddress block 0) blockBytes s.flash)).draw

/-! ## The entry that the four pages give (R125) -/

/-- What a scanned header block shows: which pages read, and are blank, and the words and record they hold. A page whose
read was uncorrectable is not blank and holds nothing. -/
structure PagesFound where
  blank : Bool
  firstBlank : Bool
  retire : Bool
  withdraw : Bool
  header : Option Header
  commit : Bool
deriving DecidableEq, Repr

/-- The pages of a header block as found, `bad i` saying that the read of page `i` was uncorrectable. -/
def pagesFound (m : Mem) (block : Nat) (bad : Nat → Bool) : PagesFound :=
  let blankAt (i : Nat) : Bool := !bad i && pageBlank m block i
  let header := if bad 0 then none else readHeader m block
  { blank := blankAt 0 && blankAt 1 && blankAt 2 && blankAt 3
    firstBlank := blankAt 0
    retire := !bad 3 && holdsRetire m block
    withdraw := !bad 2 && holdsWithdraw m block
    header := header
    commit := !bad 1 && (match header with
      | some h => holdsCommit m block h.seq
      | none => false) }

/-- The entry state of the table of R125, and whether ARCHIVE_HEADER_BAD is raised. -/
def stateFound (p : PagesFound) : EntryState × Bool :=
  if p.blank then (.free, false)
  else if p.retire then (.retired, false)
  else if p.withdraw then (.stale, false)
  else if p.header.isSome then (if p.commit then .valid else .stale, false)
  else (.stale, !p.firstBlank)

end Sys2Proof.Machine
end

