-- ==== Sys2Proof/Machine/Port.lean ====
section
/-!
DEFINITION. The directory's and the job queue's operations (R122, R123, R141, R144), issuing flash commands (R143), the ends
of jobs (R134, R137, R140), and the arbiter (R146 to R151).
-/

namespace Sys2Proof.Machine

/-! ## Directory entries -/

/-- The entry of an extent. -/
def State.entry (s : State) (e : Fin 225) : Entry := s.arch.entries.get e

/-- The state with an extent's entry replaced. -/
def State.setEntry (s : State) (e : Fin 225) (v : Entry) : State :=
  s.withArch { s.arch with entries := s.arch.entries.set e v }

/-- An entry takes another state; an entry that stops being VALID loses its slots' links (R123, R108). -/
def toEntryState (e : Fin 225) (v : EntryState) (s : State) : State :=
  let was := (s.entry e).state
  let s := s.setEntry e { s.entry e with state := v }
  if was = .valid ∧ v ≠ .valid then unlinkExtent e s else s

/-- One failure more on an extent (R122). -/
def countFailure (e : Fin 225) (s : State) : State :=
  s.setEntry e { s.entry e with failures := satSucc 255 (s.entry e).failures }

/-- The erase progress of an extent set (R141). -/
def setProgress (e : Fin 225) (n : Nat) (s : State) : State := s.setEntry e { s.entry e with progress := n }

/-- The lowest-numbered FREE entry (R130). -/
def lowestFree (s : State) : Option (Fin 225) := s.arch.entries.first? fun v => decide (v.state = .free)

/-- How many entries are in a state. -/
def stateCount (s : State) (v : EntryState) : Nat := s.arch.entries.count fun x => decide (x.state = v)

/-- The largest sequence number there is (R122). -/
def lastSequence : Nat := 4294967295

/-! ## The job queue -/

/-- Places in the job queue (R144). -/
def jobPlaces : Nat := 48

/-- The state with another job queue. -/
def State.setJobs (s : State) (q : List Job) : State := s.withPort { s.port with queue := q }

/-- A job joins the tail of the queue while a place is free (R144). -/
def queueJob (j : Job) (s : State) : State :=
  if s.port.queue.length < jobPlaces then s.setJobs (s.port.queue ++ [j]) else s

def Job.state : Job → JobState
  | .program j => j.state
  | .read j => j.state
  | .withdraw _ running | .retire _ running => if running then .running else .queued

/-- A job with another state; a WITHDRAW or RETIRE job is never PAUSED and is QUEUED instead (R144, R151). -/
def Job.withState (v : JobState) : Job → Job
  | .program j => .program { j with state := v }
  | .read j => .read { j with state := v }
  | .withdraw e _ => .withdraw e (decide (v = .running))
  | .retire e _ => .retire e (decide (v = .running))

def Job.isRunning (j : Job) : Bool := decide (j.state = .running)

def Job.isProgram : Job → Bool
  | .program _ => true
  | .read _ | .withdraw _ _ | .retire _ _ => false

def Job.isRead : Job → Bool
  | .read _ => true
  | .program _ | .withdraw _ _ | .retire _ _ => false

def Job.isWord : Job → Bool
  | .withdraw _ _ | .retire _ _ => true
  | .program _ | .read _ => false

/-- The current job: the RUNNING job of the queue (R144). -/
def currentJob (p : FlashPort) : Option Job := p.queue.find? Job.isRunning

/-- The RUNNING job changed. -/
def updateRunning (f : Job → Job) (s : State) : State := s.setJobs (updateFirst Job.isRunning f s.port.queue)

/-- The RUNNING job leaves the queue. -/
def dropRunning (s : State) : State := s.setJobs (s.port.queue.eraseP Job.isRunning)

/-- The PROGRAM job on a slot: a slot has at most one (R129). -/
def isProgramOn (n : Fin 24) : Job → Bool
  | .program j => decide (j.slot = n)
  | .read _ | .withdraw _ _ | .retire _ _ => false

/-- The READ job into a slot. -/
def isReadInto (n : Fin 24) : Job → Bool
  | .read j => decide (j.slot = n)
  | .program _ | .withdraw _ _ | .retire _ _ => false

def programOn (s : State) (n : Fin 24) : Option ProgramJob :=
  s.port.queue.findSome? fun j => match j with
    | .program p => if p.slot = n then some p else none
    | .read _ | .withdraw _ _ | .retire _ _ => none

/-- Whether a QUEUED READ waits (R147, R150). -/
def readWaits (p : FlashPort) : Bool := p.queue.any fun j => j.isRead && decide (j.state = .queued)

/-! ## Issuing flash commands (R143) -/

/-- The deadline of a flash command in milliseconds (R143). -/
def FlashKind.deadline : FlashKind → Nat
  | .pageRead => 1
  | .pageProgram => 2
  | .blockErase => 20
  | .suspend => 1
  | .resume => 1
  | .reset => 5

/-- A flash command is issued. -/
def issue (kind : FlashKind) (address : Option (Nat × Nat)) (s : State) : State :=
  s.withPort { s.port with command := some { kind, address, deadline := kind.deadline } }

/-- The command in flight is over. -/
def endCommand (s : State) : State := s.withPort { s.port with command := none }

/-- A flash reset is issued (R152, R157). -/
def issueReset (cause : ResetCause) (s : State) : State :=
  let s := issue .reset none s
  s.withPort { s.port with resetCause := some cause }

/-- Page programs of a PROGRAM job (R132). -/
def programPages : Nat := 4610

/-- The place of the page program after `progress` of them: header record, data pages, commit word (R132). -/
def programPlace (e : Fin 225) (progress : Nat) : Nat × Nat :=
  if progress = 0 then (blockOf e 0, 0)
  else if progress ≤ dataPages then (blockOf e (dataPlace (progress - 1)).1, (dataPlace (progress - 1)).2)
  else (blockOf e 0, 1)

/-- The next command of a PROGRAM job that holds an extent: a blank-check read or a page program (R131, R132). -/
def issueProgramStep (j : ProgramJob) (s : State) : State :=
  match j.held with
  | some (e, _) =>
    if j.checked < 4 then issue .pageRead (some (blockOf e 0, j.checked)) s
    else issue .pageProgram (some (programPlace e j.progress)) s
  | none => s

/-- The next page read of a READ job (R148). -/
def issueReadStep (j : ReadJob) (s : State) : State :=
  issue .pageRead (some (blockOf j.extent (dataPlace j.progress).1, (dataPlace j.progress).2)) s

/-- The page of a header block that a WITHDRAW or RETIRE job checks (R140). -/
def wordPlace : Job → Option (Nat × Nat)
  | .withdraw e _ => some (blockOf e 0, 2)
  | .retire e _ => some (blockOf e 0, 3)
  | .program _ | .read _ => none

/-! ## The ends of jobs -/

/-- A slot that was SAVING becomes HELD (R134). -/
def backToHeld (n : Fin 24) (s : State) : State :=
  if (s.slot n).state = .saving then s.setSlot n { s.slot n with state := .held } else s

/-- A PROGRAM job ends without a commit (R134): it leaves the queue, its pin is released, its slot returns, SAVE_FAILED. -/
def endSave (j : ProgramJob) (reason : SaveFailure) (s : State) : State :=
  s.setJobs (s.port.queue.eraseP (isProgramOn j.slot)) |> slotUnpin j.slot |> backToHeld j.slot
    |> postIssued (.saveFailed j.tag j.slot j.lesson j.position reason) j.link

/-- The entry a PROGRAM job held, if it took one, becomes STALE (R134). -/
def staleHeld (j : ProgramJob) (s : State) : State :=
  match j.held with
  | some (e, _) => toEntryState e .stale s
  | none => s

/-- A PROGRAM job ends with its entry STALE (R134, R135). -/
def abandonSave (j : ProgramJob) (reason : SaveFailure) (s : State) : State := s |> staleHeld j |> endSave j reason

/-- A deadline expiry leaves an entry STALE with one failure more; at 3 it becomes RETIRED with a RETIRE job (R141). -/
def expireEntry (e : Fin 225) (s : State) : State :=
  let s := s |> toEntryState e .stale |> countFailure e
  if 3 ≤ (s.entry e).failures then s |> toEntryState e .retired |> queueJob (.retire e false) else s

/-- A program or an erase failed: the entry becomes RETIRED and a RETIRE job is queued (R134, R140, R141). -/
def retireEntry (e : Fin 225) (s : State) : State := s |> toEntryState e .retired |> queueJob (.retire e false)

/-- What every end of a READ job does: it leaves the queue, the pin and the reader count are released (R137). -/
def leaveRead (j : ReadJob) (s : State) : State :=
  let s := s.setJobs (s.port.queue.eraseP (isReadInto j.slot)) |> slotUnpin j.slot
  s.setEntry j.extent { s.entry j.extent with readers := (s.entry j.extent).readers - 1 }

/-- A READ job fails: its slot becomes EMPTY and RECALL_FAILED is posted (R137). -/
def failRead (j : ReadJob) (reason : RecallFailure) (s : State) : State :=
  s |> leaveRead j |> emptySlot j.slot |> postIssued (.recallFailed j.tag j.slot j.extent reason) j.link

/-- The lesson and position an entry holds, for RECALL_DONE. -/
def entryPlace (s : State) (e : Fin 225) : Nat × Nat :=
  match (s.entry e).header with
  | some h => (h.lesson, h.position)
  | none => (0, 0)

/-- Whether the entry a READ job reads is still VALID with the job's sequence number (R137). -/
def stillValid (j : ReadJob) (s : State) : Bool :=
  decide ((s.entry j.extent).state = .valid) && decide ((s.entry j.extent).header.map (·.seq) = some j.seq)

/-- A READ job completes (R137). -/
def completeRead (j : ReadJob) (s : State) : State :=
  let valid := stillValid j s
  let s := s |> leaveRead j |> (if valid then unlinkDamaged j.extent else id)
  let v := s.slot j.slot
  let s := s.setSlot j.slot
    (if valid then { v with state := .saved, link := some { extent := j.extent, seq := j.seq } }
     else { v with state := .held, link := none })
  let p := entryPlace s j.extent
  postIssued (.recallDone j.tag j.slot j.extent j.seq p.1 p.2 (!valid)) j.link s

/-! ## Starting jobs -/

/-- The header fields an entry takes from a PROGRAM job and its slot's record (R130). -/
def jobHeader (j : ProgramJob) (seq : Nat) (info : Option SlotInfo) : Header :=
  match info with
  | some i => { seq, lesson := j.lesson, position := j.position, time := i.time, profile := i.profile, view := i.view }
  | none => { seq, lesson := j.lesson, position := j.position, time := 0, profile := 0, view := View.reset }

/-- A PROGRAM job takes a FREE entry, which becomes WRITING with the job's header fields (R130, R131). -/
def takeEntry (j : ProgramJob) (e : Fin 225) (seq : Nat) (s : State) : State :=
  s.setEntry e { s.entry e with state := .writing, header := some (jobHeader j seq (s.slot j.slot).info) }

/-- A PROGRAM job with an extent to check afresh (R130, R131). -/
def ProgramJob.onExtent (j : ProgramJob) (e : Fin 225) (seq : Nat) : ProgramJob :=
  { j with state := .running, held := some (e, seq), checked := 0, notBlank := false }

/-- The first job that satisfies `p` replaced. -/
def replaceJob (p : Job → Bool) (j : Job) (s : State) : State := s.setJobs (updateFirst p (fun _ => j) s.port.queue)

/-- The arbiter starts a QUEUED PROGRAM job: the slot check, the sequence number, the entry, the first blank-check read; or
the job ends (R130, R131). -/
def startProgram (j : ProgramJob) (s : State) : State :=
  if (s.slot j.slot).state = .damaged then endSave j .damaged s
  else if lastSequence ≤ s.arch.highest then endSave j .archiveFull s
  else match lowestFree s with
    | none => endSave j .archiveFull s
    | some e =>
      let seq := s.arch.highest + 1
      let started := j.onExtent e seq
      s.withArch { s.arch with highest := seq } |> takeEntry j e seq
        |> replaceJob (fun k => decide (k = .program j)) (.program started) |> issueProgramStep started

/-- The extent the archive names for reclaim: one with erase progress, else the lowest STALE one (R141). -/
def reclaimExtent (s : State) : Option (Fin 225) :=
  match s.arch.entries.first? fun v => decide (v.state = .stale ∧ 0 < v.progress) with
  | some e => some e
  | none => s.arch.entries.first? fun v => decide (v.state = .stale)

/-- The next block of an extent to erase: 1 to 144, then the header block (R141, R149). -/
def nextBlock (progress : Nat) : Nat := if progress < 144 then progress + 1 else 0

/-- Case 5 of R146: a resume, or the next block erase of reclaim, or nothing. -/
def reclaimOrResume (s : State) : State :=
  match s.port.suspended with
  | some (e, b) => issue .resume (some (blockOf e b, 0)) s
  | none =>
    match reclaimExtent s with
    | some e =>
      let b := nextBlock (s.entry e).progress
      issue .blockErase (some (blockOf e b, 0)) (s.withPort { s.port with reclaim := some (e, b) })
    | none => s

/-- What the arbiter may start (R146, R151), in the order of the cases. -/
inductive Choice where
  | read (j : ReadJob)
  | word (j : Job)
  | resumeProgram (j : ProgramJob)
  | startProgram (j : ProgramJob)
  | reclaim
deriving DecidableEq, Repr

def pausedRead (p : FlashPort) : Option ReadJob :=
  p.queue.findSome? fun j => match j with
    | .read r => if r.state = .paused then some r else none
    | .program _ | .withdraw _ _ | .retire _ _ => none

def queuedRead (p : FlashPort) : Option ReadJob :=
  p.queue.findSome? fun j => match j with
    | .read r => if r.state = .queued then some r else none
    | .program _ | .withdraw _ _ | .retire _ _ => none

def queuedWord (p : FlashPort) : Option Job := p.queue.find? fun j => j.isWord && !j.isRunning

def programIn (v : JobState) (p : FlashPort) : Option ProgramJob :=
  p.queue.findSome? fun j => match j with
    | .program r => if r.state = v then some r else none
    | .read _ | .withdraw _ _ | .retire _ _ => none

/-- The first case of R146 that applies; a paused READ goes ahead of them all. -/
def choose (p : FlashPort) : Choice :=
  match pausedRead p, queuedRead p with
  | some j, _ => .read j
  | none, some j => .read j
  | none, none =>
    if p.suspended.isSome then .reclaim
    else match queuedWord p, programIn .paused p, programIn .queued p with
      | some j, _, _ => .word j
      | none, some j, _ => .resumeProgram j
      | none, none, some j => .startProgram j
      | none, none, none => .reclaim

/-- The choice carried out. A PROGRAM job that ends as it starts leaves another decision point, hence the fuel. -/
def carryOut : Nat → State → State
  | 0, s => s
  | fuel + 1, s =>
    match choose s.port with
    | .read j =>
      let started := { j with state := .running }
      s |> replaceJob (fun k => decide (k = .read j)) (.read started) |> issueReadStep started
    | .word j => s |> replaceJob (fun k => decide (k = j)) (j.withState .running) |> issue .pageRead (wordPlace j)
    | .resumeProgram j =>
      let started := { j with state := .running }
      s |> replaceJob (fun k => decide (k = .program j)) (.program started) |> issueProgramStep started
    | .startProgram j =>
      let s := startProgram j s
      if s.port.command.isSome then s else carryOut fuel s
    | .reclaim => reclaimOrResume s

/-- A block erase in flight is suspended when a READ is QUEUED (R150, log 34). -/
def suspendForRead (s : State) : State :=
  match s.port.command with
  | some c =>
    if c.kind = .blockErase ∧ readWaits s.port = true ∧ halted s = false ∧ s.arch.mount = .mounted then
      issue .suspend c.address s
    else s
  | none => s

/-- A decision point, if there is one (R146): the port may start work, or suspends an erase for a READ. -/
def arbitrate (s : State) : State :=
  if s.port.command.isSome then suspendForRead s
  else if s.port.offline || halted s || decide (s.arch.mount ≠ .mounted) || (currentJob s.port).isSome then s
  else carryOut (s.port.queue.length + 1) s

end Sys2Proof.Machine
end

