-- ==== Sys2Proof/Machine/Mount.lean ====
section
/-!
DEFINITION. The mount (R124 to R127): the scan of the header pages, reconciliation, and the end; and `goOn`, which lets the
port go on with what it may do after a step's own work.
-/

namespace Sys2Proof.Machine

/-- Extents of the lesson flash (R120). -/
def extents : Nat := 225

/-- A mount begins: MOUNTING, with the scan at extent 0 (R124). -/
def beginMount (cause : MountCause) (s : State) : State :=
  s.withArch { s.arch with mount := .mounting, cause := cause, scan := Scan.start }

/-- The state with another place of the scan. -/
def State.setScan (s : State) (v : Scan) : State := s.withArch { s.arch with scan := v }

/-! ## Scanning -/

/-- The entry of a scanned extent; the failure count is not changed (R125). -/
def scannedEntry (v : Entry) (p : PagesFound) : Entry :=
  { state := (stateFound p).1, header := p.header, readers := 0, progress := 0, failures := v.failures }

/-- The four pages of an extent have been read: its entry is set, and a bad header is noticed (R125). Where the erase of this header
block is suspended, they read as before the erase (DESIGN CHOICE, log 33). -/
def scanExtent (e : Fin 225) (bad : List Bool) (s : State) : State :=
  let p := pagesFound s.flash (blockOf e 0) fun i => bad.getD i false
  let s := s.setEntry e (scannedEntry (s.entry e) p)
  if (stateFound p).2 then raiseInternal .archiveHeaderBad .none s else s

/-- One header page of the scan is done, `bad` saying that its read was uncorrectable (R124, R125). -/
def scanPage (bad : Bool) (s : State) : State :=
  let v := s.arch.scan
  let found := v.bad ++ [bad]
  if found.length < 4 then s.setScan { v with bad := found, again := false }
  else
    let s := s.setScan { extent := v.extent + 1, bad := [], again := false }
    match readBelow 225 v.extent with
    | some e => scanExtent e found s
    | none => s

/-! ## Reconciliation (R126) -/

/-- Step 1: the highest sequence number. -/
def raiseHighest (s : State) : State :=
  let found := s.arch.entries.data.foldl (fun n v => max n ((v.header.map (·.seq)).getD 0)) s.arch.highest
  s.withArch { s.arch with highest := found }

/-- Two entries are VALID for one lesson and position. -/
def samePlace (v w : Entry) : Bool :=
  decide (v.state = .valid) && decide (w.state = .valid)
    && (match v.header, w.header with
        | some g, some h => decide (g.lesson = h.lesson ∧ g.position = h.position)
        | _, _ => false)

/-- The sequence number of an entry, 0 without one. -/
def entrySeq (v : Entry) : Nat := (v.header.map (·.seq)).getD 0

/-- Another VALID entry of the same lesson and position has the higher sequence number; of equal ones the lower extent is
kept (log 31). -/
def isDuplicate (s : State) (e : Fin 225) : Bool :=
  (List.finRange 225).any fun f =>
    samePlace (s.entry e) (s.entry f)
      && (decide (entrySeq (s.entry e) < entrySeq (s.entry f))
          || (decide (entrySeq (s.entry e) = entrySeq (s.entry f)) && decide (f < e)))

/-- The duplicates (R126), by rising extent: that order decides the order of their WITHDRAW jobs and which of them get the
queue's last places (DESIGN CHOICE, log 57). -/
def duplicates (s : State) : List (Fin 225) := (List.finRange 225).filter (isDuplicate s)

/-- Step 2: the duplicates become STALE, with a WITHDRAW job each while the queue has a place; an OFFLINE port takes none
(R127). The links wait for step 3. -/
def dropDuplicates (s : State) : State :=
  (duplicates s).foldl (fun t e =>
    let t := t.setEntry e { t.entry e with state := .stale }
    if s.port.offline then t else queueJob (.withdraw e false) t) s

/-- The VALID entry with a sequence number, the lowest extent of equal ones (log 31). -/
def entryWithSeq (s : State) (seq : Nat) : Option (Fin 225) :=
  s.arch.entries.first? fun v => decide (v.state = .valid) && decide (v.header.map (·.seq) = some seq)

/-- Step 3 for one slot: the link takes the VALID entry's extent, or is dropped. -/
def relinked (s : State) (v : Slot) : Slot :=
  match v.link with
  | none => v
  | some k =>
    match entryWithSeq s k.seq with
    | some e => { v with link := some { k with extent := e } }
    | none => unlinked v

/-- How many slots step 3 unlinks. -/
def unlinkCount (s : State) : Nat :=
  s.store.slots.count fun v => match v.link with
    | none => false
    | some k => (entryWithSeq s k.seq).isNone

/-- MOUNT_DONE with the counts of the directory as it stands (R126). -/
def mountDone (outcome : MountOutcome) (duplicates unlinked : Nat) (s : State) : Event :=
  .mountDone s.arch.cause outcome (stateCount s .free) (stateCount s .writing) (stateCount s .valid)
    (stateCount s .stale) (stateCount s .retired) duplicates unlinked

/-- Reconciliation and the end of the mount (R126, R127). -/
def endMount (outcome : MountOutcome) (s : State) : State :=
  let s := raiseHighest s
  let dropped := (duplicates s).length
  let s := dropDuplicates s
  let gone := unlinkCount s
  let s := s.withStore { s.store with slots := s.store.slots.map (relinked s) }
  let s := s.withArch { s.arch with mount := match outcome with
                                              | .complete => .mounted
                                              | .flashOffline => .unmounted }
  postBoth (mountDone outcome dropped gone s) s

/-- An entry not yet scanned when the port went OFFLINE (R127). -/
def unscanned (v : Entry) : Entry := { v with state := .stale, header := none, readers := 0, progress := 0 }

/-- A mount that OFFLINE stops (R127). -/
def endMountOffline (s : State) : State :=
  let entries := Table.tabulate 225 fun e =>
    if s.arch.scan.extent ≤ e.val then unscanned (s.arch.entries.get e) else s.arch.entries.get e
  s.withArch { s.arch with entries := entries } |> endMount .flashOffline

/-- The scan goes on with its next page read, or the mount ends and the arbiter chooses (R124, R126, R146). -/
def continueMount (s : State) : State :=
  match readBelow 225 s.arch.scan.extent with
  | some e => issue .pageRead (some (blockOf e 0, s.arch.scan.bad.length)) s
  | none => arbitrate (endMount .complete s)

/-- What the port does after a step's own work: with a command in flight at most a suspend, with a mount under way its next
read, and otherwise a decision point. -/
def goOn (s : State) : State :=
  if s.port.command.isSome then suspendForRead s
  else if s.arch.mount = .mounting then continueMount s
  else arbitrate s

/-- MOUNT_PAGE_READ (R124, R125). -/
def execMountPageRead (result : ReadResult) (s : State) : StepOutcome :=
  match s.port.command, s.arch.mount with
  | some c, .mounting =>
    if c.kind = .pageRead then .next (s |> endCommand |> scanPage (decide (result = .uncorrectable)) |> goOn)
    else .next s
  | _, _ => .next s

end Sys2Proof.Machine
end

