-- ==== Sys2Proof/Machine/Jobs.lean ====
section
/-!
DEFINITION. The flash's reports on the commands of jobs (R131 to R134, R137, R140, R147, R148, R151): blank checks, page
programs, recall reads, words; and a slot read that meets an uncorrectable error (R107).
-/

namespace Sys2Proof.Machine

/-! ## PROGRAM jobs -/

/-- Whether a PROGRAM job's slot is DAMAGED. -/
def slotDamaged (s : State) (j : ProgramJob) : Bool := decide ((s.slot j.slot).state = .damaged)

/-- Why a running PROGRAM job ends at a boundary whatever its command gave: cancelled, or its slot DAMAGED (R134, R135,
log 29). -/
def endsAtBoundary (s : State) (j : ProgramJob) : Option SaveFailure :=
  if j.cancelled then some .cancelled else if slotDamaged s j then some .damaged else none

/-- A PROGRAM job between two of its commands: PAUSED while HALTED or for a waiting READ, and otherwise its next command
(R147, R151). -/
def boundary (j : ProgramJob) (s : State) : State :=
  if halted s || readWaits s.port then replaceJob Job.isRunning (.program { j with state := .paused }) s
  else replaceJob Job.isRunning (.program j) s |> issueProgramStep j

/-- A finished blank check: a blank extent is kept, any other becomes STALE and the next lowest FREE entry is taken with the
same sequence number, or the job ends (R131). -/
def finishCheck (j : ProgramJob) (s : State) : State :=
  match j.held with
  | none => s
  | some (e, seq) =>
    if j.notBlank then
      let s := toEntryState e .stale s
      match lowestFree s with
      | none => endSave j .archiveFull s
      | some f => takeEntry j f seq s |> boundary (j.onExtent f seq)
    else boundary j s

/-- BLANK_CHECK_READ (R131, R147). All four pages are read (log 27). -/
def execBlankCheckRead (result : ReadResult) (s : State) : StepOutcome :=
  match s.port.command, currentJob s.port with
  | some c, some (.program j) =>
    match c.kind, j.held with
    | .pageRead, some (e, _) =>
      let blank := decide (result = .data) && pageBlank s.flash (blockOf e 0) j.checked
      let s := endCommand s
      match endsAtBoundary s j with
      | some reason => .next (abandonSave j reason s |> goOn)
      | none =>
        let j := { j with checked := j.checked + 1, notBlank := j.notBlank || !blank }
        .next ((if j.checked < 4 then boundary j s else finishCheck j s) |> goOn)
    | _, _ => .next s
  | _, _ => .next s

/-- The bytes a PROGRAM job's page program writes: header record, a data page of the slot, or the commit word (R132). -/
def programBytes (s : State) (j : ProgramJob) (e : Fin 225) (seq : Nat) : List Byte :=
  if j.progress = 0 then
    match (s.entry e).header with
    | some h => headerBytes h
    | none => headerBytes (jobHeader j seq (s.slot j.slot).info)
  else if j.progress ≤ dataPages then
    (s.slot j.slot).content.readRun Config.dramBlank (Config.flashPage * (j.progress - 1)) Config.flashPage
  else commitWord seq

/-- The other VALID entries of a lesson and position. -/
def otherHolders (s : State) (e : Fin 225) (lesson position : Nat) : List (Fin 225) :=
  (List.finRange 225).filter fun f =>
    decide (f ≠ e) && decide ((s.entry f).state = .valid) && decide (entryPlace s f = (lesson, position))
      && (s.entry f).header.isSome

/-- An entry becomes STALE with a WITHDRAW job queued for it (R129, R133, R139). -/
def withdraw (s : State) (e : Fin 225) : State := s |> toEntryState e .stale |> queueJob (.withdraw e false)

/-- The commit of a PROGRAM job, in the order of R133. -/
def commit (j : ProgramJob) (e : Fin 225) (seq : Nat) (s : State) : State :=
  let s := s.setJobs (s.port.queue.eraseP (isProgramOn j.slot)) |> toEntryState e .valid
  let s := (otherHolders s e j.lesson j.position).foldl withdraw s
  s.setSlot j.slot { s.slot j.slot with state := .saved, link := some { extent := e, seq := seq } }
    |> slotUnpin j.slot |> postIssued (.saveDone j.tag j.slot j.lesson j.position e seq) j.link

/-- A page program of a PROGRAM job passed (R132, R133, R147). -/
def programPassed (j : ProgramJob) (e : Fin 225) (seq : Nat) (s : State) : State :=
  let place := programPlace e j.progress
  let s := s.withFlash (programPage place.1 place.2 (programBytes s j e seq) s.flash)
  match endsAtBoundary s j with
  | some reason => abandonSave j reason s
  | none =>
    let j := { j with progress := j.progress + 1 }
    if j.progress = programPages then commit j e seq s else boundary j s

/-- A page program of a PROGRAM job failed: the entry becomes RETIRED and a RETIRE job is queued in the place the job leaves
(R134, R135, R154). A job already cancelled or damaged keeps that reason and takes no failure count (log 29). -/
def programFailed (j : ProgramJob) (e : Fin 225) (s : State) : State :=
  let place := programPlace e j.progress
  let s := cutPage .failure place.1 place.2 s
  let s := match endsAtBoundary s j with
    | some reason => endSave j reason s
    | none => countFailure e s |> endSave j .programFail
  s |> retireEntry e |> raiseInternal .flashProgramFail .none

/-- PAGE_PROGRAM_FINISH (R132 to R135, R147, R154). -/
def execPageProgramFinish (verdict : Verdict) (s : State) : StepOutcome :=
  match s.port.command, currentJob s.port with
  | some c, some (.program j) =>
    match c.kind, j.held with
    | .pageProgram, some (e, seq) =>
      let s := endCommand s
      .next ((match verdict with
        | .pass => programPassed j e seq s
        | .fail => programFailed j e s) |> goOn)
    | _, _ => .next s
  | _, _ => .next s

/-! ## READ jobs -/

/-- The bytes of the flash page a READ job has read. -/
def readPageBytes (s : State) (j : ReadJob) : List Byte :=
  let place := dataPlace j.progress
  s.flash.readRun Config.flashBlank (pageAddress (blockOf j.extent place.1) place.2) Config.flashPage

/-- A data page goes into the slot (R137, R148). -/
def storePage (j : ReadJob) (s : State) : State :=
  let v := s.slot j.slot
  s.setSlot j.slot
    { v with content := v.content.writeRun Config.dramBlank (Config.flashPage * j.progress) (readPageBytes s j) }

/-- A READ job between two page reads: PAUSED while HALTED, and otherwise its next read (R148, R151). -/
def readBoundary (j : ReadJob) (s : State) : State :=
  if halted s then replaceJob Job.isRunning (.read { j with state := .paused }) s
  else replaceJob Job.isRunning (.read j) s |> issueReadStep j

/-- READ_JOB_PAGE_READ (R137, R148). -/
def execReadJobPageRead (result : ReadResult) (s : State) : StepOutcome :=
  match s.port.command, currentJob s.port with
  | some c, some (.read j) =>
    if c.kind = .pageRead then
      let s := endCommand s
      match result with
      | .uncorrectable =>
        .next (s |> raiseInternal .archiveReadUncorrectable .none |> failRead j .uncorrectable |> goOn)
      | .data =>
        let s := storePage j s
        let j := { j with progress := j.progress + 1 }
        .next ((if j.progress = dataPages then completeRead j s else readBoundary j s) |> goOn)
    else .next s
  | _, _ => .next s

/-! ## WITHDRAW and RETIRE jobs -/

/-- What a WITHDRAW or RETIRE job's page shows: its word, blank, or neither. -/
inductive WordFound where
  | word
  | blank
  | neither
deriving DecidableEq, Repr

/-- The marker of a job's word (R184). -/
def wordMarker : Job → List Byte
  | .withdraw _ _ => withdrawMarker
  | .retire _ _ => retireMarker
  | .program _ | .read _ => []

/-- The word page as read (R140). -/
def wordFound (s : State) (j : Job) (block page : Nat) : WordFound :=
  if pageHead s.flash block page 4 = wordMarker j then .word
  else if pageBlank s.flash block page then .blank
  else .neither

/-- WORD_CHECK_READ (R140, R148): a blank page is programmed, and otherwise the job completes. While HALTED the job goes back
to QUEUED before its program (R151). -/
def execWordCheckRead (result : ReadResult) (s : State) : StepOutcome :=
  match s.port.command, currentJob s.port with
  | some c, some j =>
    match c.kind, wordPlace j with
    | .pageRead, some (block, page) =>
      let s := endCommand s
      if result = .data ∧ wordFound s j block page = .blank then
        if halted s then .next (updateRunning (Job.withState .queued) s |> goOn)
        else .next (issue .pageProgram (some (block, page)) s |> goOn)
      else .next (dropRunning s |> goOn)
    | _, _ => .next s
  | _, _ => .next s

/-- A word program failed (R140, R154): the page does not hold its word; a WITHDRAW job's entry becomes RETIRED, a RETIRE job's
stays so. -/
def wordFailed (j : Job) (block page : Nat) (s : State) : State :=
  let s := cutPage .failure block page s |> dropRunning
  let s := match j with
    | .withdraw e _ => s |> countFailure e |> retireEntry e
    | .program _ | .read _ | .retire _ _ => s
  raiseInternal .flashProgramFail .none s

/-- WORD_PROGRAM_FINISH (R140, R154). -/
def execWordProgramFinish (verdict : Verdict) (s : State) : StepOutcome :=
  match s.port.command, currentJob s.port with
  | some c, some j =>
    match c.kind, wordPlace j with
    | .pageProgram, some (block, page) =>
      let s := endCommand s
      .next ((match verdict with
        | .pass => s.withFlash (programPage block page (wordMarker j) s.flash) |> dropRunning
        | .fail => wordFailed j block page s) |> goOn)
    | _, _ => .next s
  | _, _ => .next s

/-! ## Uncorrectable reads of a slot (R107) -/

/-- Whether a reader is reading a slot: a shown pane, an active export, or the data page program in flight of the slot's
PROGRAM job (R132). -/
def isReading (s : State) (n : Fin 24) : SlotReader → Bool
  | .compositor => decide (s.comp.display.pane0.page = .slot n) || decide (s.comp.display.pane1.page = .slot n)
  | .exporter => exports s.links.panel n || exports s.links.bridge n
  | .flashPort =>
    match s.port.command, currentJob s.port with
    | some c, some (.program j) =>
      decide (c.kind = .pageProgram ∧ j.slot = n ∧ 1 ≤ j.progress ∧ j.progress ≤ dataPages)
    | _, _ => false

/-- A started job whose slot another reader found DAMAGED: a paused one ends at once (R134); a running one ends at its
boundary and a queued one at its start. -/
def endPausedSave (n : Fin 24) (s : State) : State :=
  match programOn s n with
  | some j => if j.state = .paused then abandonSave j .damaged s else s
  | none => s

/-- The PROGRAM job's own read failed: the data page is not programmed and the job is abandoned (R132, log 28). -/
def abandonOwnRead (n : Fin 24) (s : State) : State :=
  match programOn s n with
  | some j => abandonSave j (if j.cancelled then .cancelled else .damaged) (endCommand s)
  | none => s

/-- SLOT_READ_UNCORRECTABLE (R107). -/
def execSlotReadUncorrectable (n : Fin 24) (reader : SlotReader) (s : State) : StepOutcome :=
  if isReading s n reader then
    let s := damageSlot n s
    .next ((match reader with
      | .flashPort => abandonOwnRead n s
      | .compositor | .exporter => endPausedSave n s) |> goOn)
  else .next s

end Sys2Proof.Machine
end

