-- ==== Sys2Proof/Machine/PortEvents.lean ====
section
/-!
DEFINITION. The flash's reports on reclaim (R141, R149, R150, R154), the flash reset (R152, R155, R156), deadline expiries
(R152, R153), and what a soft reset and a power-on reset cut (R157).
-/

namespace Sys2Proof.Machine

/-! ## Reclaim -/

/-- The erase the port carries out for reclaim is over. -/
def endReclaim (s : State) : State := s.withPort { s.port with reclaim := none }

/-- A block erase passed: progress, or after the header block the entry is FREE without header fields (R141). -/
def erasePassed (e : Fin 225) (b : Nat) (s : State) : State :=
  let s := s.withFlash (eraseBlock (blockOf e b) s.flash)
  if b = 0 then
    let s := toEntryState e .free s
    s.setEntry e { s.entry e with progress := 0, header := none }
  else setProgress e ((s.entry e).progress + 1) s

/-- A block erase failed: RETIRED, progress 0, one failure more, a RETIRE job, FLASH_ERASE_FAIL (R141, R154). -/
def eraseFailed (e : Fin 225) (b : Nat) (s : State) : State :=
  s |> cutBlock (blockOf e b) |> setProgress e 0 |> countFailure e |> retireEntry e |> raiseInternal .flashEraseFail .none

/-- The finish of a block erase (R149, R154). -/
def eraseEnded (verdict : Verdict) (e : Fin 225) (b : Nat) (s : State) : State :=
  let s := s |> endCommand |> endReclaim
  match verdict with
  | .pass => erasePassed e b s
  | .fail => eraseFailed e b s

/-- The kind of the command in flight, with the block reclaim works on. -/
def reclaimCommand (s : State) : Option (FlashKind × Fin 225 × Nat) :=
  match s.port.command, s.port.reclaim with
  | some c, some (e, b) => some (c.kind, e, b)
  | _, _ => none

/-- BLOCK_ERASE_FINISH (R141, R149, R154). -/
def execBlockEraseFinish (verdict : Verdict) (s : State) : StepOutcome :=
  match reclaimCommand s with
  | some (.blockErase, e, b) => .next (eraseEnded verdict e b s |> goOn)
  | _ => .next s

/-- SUSPEND_FINISH (R150). -/
def execSuspendFinish (result : SuspendResult) (s : State) : StepOutcome :=
  match reclaimCommand s with
  | some (.suspend, e, b) =>
    .next ((match result with
      | .suspended => let s := endCommand s; s.withPort { s.port with suspended := some (e, b) }
      | .finishedPass => eraseEnded .pass e b s
      | .finishedFail => eraseEnded .fail e b s) |> goOn)
  | _ => .next s

/-- RESUME_FINISH (R150): the erase is in flight again with a new deadline. -/
def execResumeFinish (s : State) : StepOutcome :=
  match reclaimCommand s with
  | some (.resume, e, b) =>
    .next (s.withPort { s.port with suspended := none } |> issue .blockErase (some (blockOf e b, 0)) |> goOn)
  | _ => .next s

/-! ## Deadline expiries (R152, R153) -/

/-- What an abandoned command leaves of the page or block it was changing, and what the abandoned erase that was suspended leaves
of its block (R157). -/
def cutCommand (cut : Cut) (s : State) : State :=
  let s := match s.port.suspended with
    | some (e, b) => cutBlock (blockOf e b) s
    | none => s
  match s.port.command with
  | some c =>
    match c.kind, c.address with
    | .pageProgram, some (block, page) => cutPage cut block page s
    | .blockErase, some (block, _) | .suspend, some (block, _) => cutBlock block s
    | _, _ => s
  | none => s

/-- An erase that will not end: progress 0 and a deadline expiry on its extent (R141, R152). -/
def abandonErase (s : State) : State :=
  match s.port.reclaim with
  | some (e, _) => s.withPort { s.port with reclaim := none, suspended := none } |> setProgress e 0 |> expireEntry e
  | none => s.withPort { s.port with suspended := none }

/-- The job in flight ends by an expiry (R134, R137, R140). A job already cancelled ends as cancelled, without a failure
(R153). -/
def expireJob (s : State) : State :=
  match currentJob s.port with
  | some (.program j) =>
    if j.cancelled then abandonSave j .cancelled s
    else
      let t := endSave j .timeout s
      match j.held with
      | some (e, _) => expireEntry e t
      | none => t
  | some (.read j) => s |> countFailure j.extent |> failRead j .timeout
  | some (.withdraw e _) => s |> dropRunning |> expireEntry e
  | some (.retire _ _) => dropRunning s
  | none => s

/-- A mount's page read expired: it is read again once, and then counts as uncorrectable (R127). -/
def expireMountRead (s : State) : State :=
  if s.arch.scan.again then scanPage true s else s.setScan { s.arch.scan with again := true }

/-- Step 2 of R152: the work the command belonged to ends. -/
def endExpiredWork (kind : FlashKind) (s : State) : State :=
  match kind with
  | .pageRead | .pageProgram =>
    let s := if s.arch.mount = .mounting then expireMountRead s else expireJob s
    if s.port.suspended.isSome then abandonErase s else s
  | .blockErase | .suspend | .resume => abandonErase s
  | .reset => s

/-- COMMAND_DEADLINE_EXPIRY (R152, R153). -/
def execCommandDeadlineExpiry (s : State) : StepOutcome :=
  match s.port.command with
  | some c =>
    if c.kind = .reset then .next s
    else
      .next (s |> cutCommand .failure |> issueReset .expiry |> endExpiredWork c.kind |> raiseInternal .flashTimeout .none)
  | none => .next s

/-! ## The flash reset -/

/-- FLASH_RESET_FINISH (R152, R156): the port leaves OFFLINE or BUSY and its work goes on. -/
def execFlashResetFinish (s : State) : StepOutcome :=
  match s.port.command with
  | some c =>
    if c.kind = .reset then
      let s := endCommand s
      .next (s.withPort { s.port with offline := false, resetCause := none } |> goOn)
    else .next s
  | none => .next s

/-- A job fails with the reason OFFLINE (R155). -/
def failOffline (s : State) (j : Job) : State :=
  match j with
  | .program p => abandonSave p .offline s
  | .read r => failRead r .offline s
  | .withdraw _ _ | .retire _ _ => s

/-- Every extent's erase progress back to 0 (R141, R155, R157). -/
def clearProgress (s : State) : State :=
  s.withArch { s.arch with entries := s.arch.entries.map fun v => { v with progress := 0 } }

/-- The port becomes OFFLINE, in the order of R155. -/
def goOffline (s : State) : State :=
  let jobs := s.port.queue
  let s := s.withPort { s.port with command := none, offline := true, suspended := none, reclaim := none }
  let s := (jobs.foldl failOffline s).setJobs []
  s |> clearProgress |> raiseInternal .flashOffline .none

/-- FLASH_RESET_EXPIRY (R127, R155, R156). -/
def execFlashResetExpiry (s : State) : StepOutcome :=
  match s.port.command with
  | some c =>
    if c.kind = .reset then
      let mounting := decide (s.arch.mount = .mounting)
      .next (goOffline s |> (if mounting then endMountOffline else id))
    else .next s
  | none => .next s

/-! ## Resets (R122, R157) -/

/-- The archive and the port at a soft reset: the work is cut, the queue emptied without events, reader counts and erase
progress 0, a flash reset issued, and a mount begun (R122, R124, R157). -/
def archiveAfterReset (s : State) : State :=
  let s := cutCommand .softReset s
  let s := s.withPort { s.port with queue := [], suspended := none, reclaim := none } |> issueReset .softReset
  let entries := s.arch.entries.map fun v => { v with readers := 0, progress := 0 }
  s.withArch { s.arch with entries := entries } |> beginMount .softReset

end Sys2Proof.Machine
end

