-- ==== Sys2Proof/Machine/Archive.lean ====
section
/-!
DEFINITION. The archive's commands (R128, R129, R135, R136, R138, R139, R142) and READ_JOBS (R158).
-/

namespace Sys2Proof.Machine

/-- The checks that five archive commands share, in their order (R129, R136, R138, R139): HALTED, MOUNTING, OFFLINE. -/
def archiveRefusal (s : State) : Option Result :=
  if halted s then some .halted
  else if s.arch.mount = .mounting then some .mounting
  else if s.port.offline then some .flashOffline
  else none

/-- Free places of the job queue. -/
def freePlaces (s : State) : Nat := jobPlaces - s.port.queue.length

/-! ## SAVE_LESSON (R129) -/

/-- The VALID entries of a lesson at or beyond a position (R129, step 1), by rising extent: the order in which their WITHDRAW
jobs are queued is the model's choice (DESIGN CHOICE, log 57). -/
def lessonTail (s : State) (lesson from_ : Nat) : List (Fin 225) :=
  (List.finRange 225).filter fun e =>
    decide ((s.entry e).state = .valid) && (match (s.entry e).header with
      | some h => decide (h.lesson = lesson ∧ from_ ≤ h.position)
      | none => false)

/-- How a position of a saved list is counted (R129, step 2). -/
inductive SaveAction where
  | programmed
  | unchanged
  | busy
  | skipped
deriving DecidableEq, Repr

/-- Whether a slot links an entry of a lesson and position (R129). -/
def linksPlace (s : State) (v : Slot) (lesson position : Nat) : Bool :=
  match v.link with
  | some k => (s.entry k.extent).header.isSome && decide (entryPlace s k.extent = (lesson, position))
  | none => false

/-- The row of R129's table for a slot at a position. -/
def saveAction (s : State) (lesson position : Nat) (n : Fin 24) : SaveAction :=
  let v := s.slot n
  let hasJob := (programOn s n).isSome
  match v.state with
  | .held => if hasJob then .busy else .programmed
  | .saved => if linksPlace s v lesson position then .unchanged else if hasJob then .busy else .programmed
  | .saving => .busy
  | .filling | .damaged | .empty => .skipped

/-- The list's slots with their positions. -/
def positions (s : State) : List (Fin 24 × Nat) := s.store.lesson.zipIdx

/-- A PROGRAM job is queued for a slot and pins it; HELD becomes SAVING (R129). -/
def queueProgram (l : Link) (tag : Byte) (lesson : Nat) (s : State) (p : Fin 24 × Nat) : State :=
  let n := p.1
  let v := s.slot n
  s.setSlot n { v with state := if v.state = .held then .saving else v.state, pins := v.pins + 1 }
    |> queueJob (.program { slot := n, lesson := lesson, position := p.2, link := l, tag := tag, state := .queued,
                            progress := 0, held := none, checked := 0, notBlank := false, cancelled := false })

/-- The tail's entries STALE, before any job is queued: what the walk of R129 meets. -/
def tailDropped (s : State) (tail : List (Fin 225)) : State := tail.foldl (fun t e => toEntryState e .stale t) s

/-- SAVE_LESSON past its first five checks (R129). -/
def saveChecked (l : Link) (tag : Byte) (lesson : Nat) (s : State) : State :=
  let tail := lessonTail s lesson s.store.lesson.length
  let seen := tailDropped s tail
  let counted (a : SaveAction) : List (Fin 24 × Nat) :=
    (positions s).filter fun p => decide (saveAction seen lesson p.2 p.1 = a)
  let todo := counted .programmed
  if freePlaces s < tail.length + todo.length then refuse l tag 0x70#8 .queueFull s
  else if stateCount s .free < todo.length then refuse l tag 0x70#8 .archiveFull s
  else if lastSequence ≤ s.arch.highest ∧ todo ≠ [] then refuse l tag 0x70#8 .archiveFull s
  else
    todo.foldl (queueProgram l tag lesson) (tail.foldl withdraw s)
      |> respond l tag 0x70#8 .accepted
          (num1 todo.length ++ num1 (counted .unchanged).length ++ num1 (counted .busy).length
            ++ num1 (counted .skipped).length ++ num1 tail.length)
      |> goOn

/-- SAVE_LESSON (R129). -/
def takeSaveLesson (l : Link) (tag : Byte) (payload : List Byte) (s : State) : State :=
  match payload with
  | [lesson] =>
    if lesson = 0#8 then refuse l tag 0x70#8 .badArgument s
    else match archiveRefusal s with
      | some r => refuse l tag 0x70#8 r s
      | none => saveChecked l tag lesson.toNat s
  | _ => refuse l tag 0x70#8 .badLength s

/-! ## CANCEL_SAVE (R135) -/

/-- A PROGRAM job cancelled by its state (R135). -/
def cancelSave (j : ProgramJob) (s : State) : State :=
  match j.state with
  | .queued => endSave j .cancelled s
  | .paused => abandonSave j .cancelled s
  | .running => replaceJob (isProgramOn j.slot) (.program { j with cancelled := true }) s

/-- CANCEL_SAVE (R135). -/
def takeCancelSave (l : Link) (tag : Byte) (payload : List Byte) (s : State) : State :=
  match payload with
  | [number] =>
    match readLessonSlot number with
    | none => refuse l tag 0x71#8 .badArgument s
    | some n =>
      if s.arch.mount = .mounting then refuse l tag 0x71#8 .mounting s
      else if s.port.offline then refuse l tag 0x71#8 .flashOffline s
      else match programOn s n with
        | none => refuse l tag 0x71#8 .notFound s
        | some j => respond l tag 0x71#8 .ok [] s |> cancelSave j |> goOn
  | _ => refuse l tag 0x71#8 .badLength s

/-! ## RECALL and RECALL_LESSON (R136, R138) -/

/-- The slot that holds an entry already: a SAVED slot that links it, or a FILLING slot being recalled from it (R136). -/
def presentSlot (s : State) (e : Fin 225) : Option (Fin 24) :=
  match (List.finRange 24).find? fun n => decide ((s.slot n).state = .saved) && linksExtent e (s.slot n) with
  | some n => some n
  | none => s.port.queue.findSome? fun j => match j with
    | .read r => if r.extent = e then some r.slot else none
    | .program _ | .withdraw _ _ | .retire _ _ => none

/-- The content fields a recall writes: origin RECALL and the entry's fields, the view clamped (R136, R184). -/
def recallInfo (h : Header) : SlotInfo :=
  { origin := .recall, time := h.time, profile := h.profile, view := clampWhole h.view }

/-- A recall of an entry into a slot starts (R136). -/
def startRecall (l : Link) (tag : Byte) (e : Fin 225) (h : Header) (n : Fin 24) (s : State) : State :=
  fillSlot n (recallInfo h) s |> (fun s => s.setEntry e { s.entry e with readers := (s.entry e).readers + 1 })
    |> queueJob (.read { slot := n, extent := e, seq := h.seq, link := l, tag := tag, state := .queued, progress := 0 })

/-- The VALID entry of a lesson and position (R136). -/
def entryAt (s : State) (lesson position : Nat) : Option (Fin 225) :=
  s.arch.entries.first? fun v => decide (v.state = .valid) && (match v.header with
    | some h => decide (h.lesson = lesson ∧ h.position = position)
    | none => false)

/-- RECALL past its first check: the entry is named, or none matches (R136). -/
def recallChecked (l : Link) (tag : Byte) (named : Option (Fin 225)) (s : State) : State :=
  match archiveRefusal s with
  | some r => refuse l tag 0x72#8 r s
  | none =>
    match named.bind fun e => (s.entry e).header.map fun h => (e, h) with
    | none => refuse l tag 0x72#8 .notFound s
    | some (e, h) =>
      match presentSlot s e with
      | some n => respond l tag 0x72#8 .alreadyPresent (num1 n.val) s
      | none =>
        match lowestEmpty s with
        | none => refuse l tag 0x72#8 .noFreeSlot s
        | some n =>
          if freePlaces s = 0 then refuse l tag 0x72#8 .queueFull s
          else startRecall l tag e h n s |> respond l tag 0x72#8 .accepted (num1 n.val) |> goOn

/-- RECALL (R136): form 0 with lesson and position, or form 1 with a sequence number (R182). -/
def takeRecall (l : Link) (tag : Byte) (payload : List Byte) (s : State) : State :=
  match payload with
  | [] => refuse l tag 0x72#8 .badLength s
  | form :: rest =>
    if form = 0#8 then
      match rest with
      | [lesson, position] =>
        if lesson = 0#8 then refuse l tag 0x72#8 .badArgument s
        else recallChecked l tag (entryAt s lesson.toNat position.toNat) s
      | _ => refuse l tag 0x72#8 .badLength s
    else if form = 1#8 then
      match rest with
      | [b0, b1, b2, b3] => recallChecked l tag (entryWithSeq s (read4 b0 b1 b2 b3)) s
      | _ => refuse l tag 0x72#8 .badLength s
    else refuse l tag 0x72#8 .badArgument s

/-- The VALID entries of a lesson in ascending position (R138). -/
def lessonEntries (s : State) (lesson : Nat) : List (Fin 225 × Header) :=
  (List.range 23).filterMap fun p => (entryAt s lesson p).bind fun e => (s.entry e).header.map fun h => (e, h)

/-- One entry of a RECALL_LESSON: appended as it stands, or recalled into the lowest EMPTY slot and appended (R138). -/
def recallOne (l : Link) (tag : Byte) (s : State) (p : Fin 225 × Header) : State :=
  match presentSlot s p.1 with
  | some n => appendLesson n s
  | none =>
    match lowestEmpty s with
    | some n => startRecall l tag p.1 p.2 n s |> appendLesson n
    | none => s

/-- RECALL_LESSON (R138). -/
def takeRecallLesson (l : Link) (tag : Byte) (payload : List Byte) (s : State) : State :=
  match payload with
  | [lesson] =>
    if lesson = 0#8 then refuse l tag 0x73#8 .badArgument s
    else match archiveRefusal s with
      | some r => refuse l tag 0x73#8 r s
      | none =>
        let found := lessonEntries s lesson.toNat
        let todo := found.countP fun p => (presentSlot s p.1).isNone
        if s.store.lesson ≠ [] then refuse l tag 0x73#8 .lessonNotEmpty s
        else if found = [] then refuse l tag 0x73#8 .notFound s
        else if emptyCount s < todo then refuse l tag 0x73#8 .noFreeSlot s
        else if freePlaces s < todo then refuse l tag 0x73#8 .queueFull s
        else
          found.foldl (recallOne l tag) s
            |> respond l tag 0x73#8 .accepted (num1 todo ++ num1 (found.length - todo)) |> goOn
  | _ => refuse l tag 0x73#8 .badLength s

/-! ## DELETE_ARCHIVED and REMOUNT (R139, R128) -/

/-- DELETE_ARCHIVED (R139): extent and sequence number. -/
def takeDeleteArchived (l : Link) (tag : Byte) (payload : List Byte) (s : State) : State :=
  match payload with
  | [e0, e1, b0, b1, b2, b3] =>
    match readBelow 225 (read2 e0 e1) with
    | none => refuse l tag 0x74#8 .badArgument s
    | some e =>
      match archiveRefusal s with
      | some r => refuse l tag 0x74#8 r s
      | none =>
        let v := s.entry e
        if v.state ≠ .valid ∨ v.header.map (·.seq) ≠ some (read4 b0 b1 b2 b3) then refuse l tag 0x74#8 .notFound s
        else if 0 < v.readers then refuse l tag 0x74#8 .entryInUse s
        else if freePlaces s = 0 then refuse l tag 0x74#8 .queueFull s
        else withdraw s e |> respond l tag 0x74#8 .ok [] |> goOn
  | _ => refuse l tag 0x74#8 .badLength s

/-- REMOUNT (R128): from OFFLINE it first has the port issue a flash reset. -/
def takeRemount (l : Link) (tag : Byte) (_payload : List Byte) (s : State) : State :=
  if s.arch.mount = .mounting then refuse l tag 0x75#8 .mounting s
  else if s.port.queue ≠ [] then refuse l tag 0x75#8 .jobsPending s
  else
    let s := respond l tag 0x75#8 .accepted [] s |> beginMount .remount
    if s.port.offline then issueReset .remount s else goOn s

/-! ## Reading (R142, R158) -/

/-- The extent under reclaim (log 32). -/
def extentUnderReclaim (s : State) : Option (Fin 225) :=
  match s.port.reclaim with
  | some (e, _) => some e
  | none => s.arch.entries.first? fun v => decide (0 < v.progress)

/-- What READ_ARCHIVE returns, in the order of R142. The extents scanned are an optional field, absent unless MOUNTING
(DEDUCED, log 10). -/
def archiveBytes (s : State) : List Byte :=
  num1 s.arch.mount.code
    ++ optional 1 (if s.arch.mount = .mounting then some (num1 s.arch.scan.extent) else none)
    ++ num4 s.arch.highest ++ num1 (stateCount s .free) ++ num1 (stateCount s .writing) ++ num1 (stateCount s .valid)
    ++ num1 (stateCount s .stale) ++ num1 (stateCount s .retired)
    ++ num1 (s.arch.entries.count fun v => decide (0 < v.failures))
    ++ optional 3 ((extentUnderReclaim s).map fun e => num2 e.val ++ num1 (s.entry e).progress)
    ++ flag s.port.offline

/-- READ_ARCHIVE (R142). -/
def takeReadArchive (l : Link) (tag : Byte) (_payload : List Byte) (s : State) : State :=
  respond l tag 0x76#8 .ok (archiveBytes s) s

/-- The slot that links an entry (R142). -/
def linkingSlot (s : State) (e : Fin 225) : Option (Fin 24) := s.store.slots.first? (linksExtent e)

/-- What READ_ENTRY returns, in the order of R142. -/
def entryBytes (s : State) (e : Fin 225) : List Byte :=
  let v := s.entry e
  num2 e.val ++ num1 v.state.code ++ optional 18 (v.header.map Header.bytes) ++ num1 v.readers ++ num1 v.progress
    ++ num1 v.failures ++ optional 1 ((linkingSlot s e).map fun n => num1 n.val)

/-- READ_ENTRY past its length check: MOUNTING, then the argument, then the entry (R142, log 41). -/
def readEntryChecked (l : Link) (tag : Byte) (valid : Bool) (named : Option (Fin 225)) (s : State) : State :=
  if s.arch.mount = .mounting then refuse l tag 0x77#8 .mounting s
  else if !valid then refuse l tag 0x77#8 .badArgument s
  else match named with
    | none => refuse l tag 0x77#8 .notFound s
    | some e => respond l tag 0x77#8 .ok (entryBytes s e) s

/-- READ_ENTRY (R142): form 0 with an extent, or form 1 with lesson and position (R182). -/
def takeReadEntry (l : Link) (tag : Byte) (payload : List Byte) (s : State) : State :=
  match payload with
  | [] => refuse l tag 0x77#8 .badLength s
  | form :: rest =>
    if form = 0#8 then
      match rest with
      | [e0, e1] =>
        let e := readBelow 225 (read2 e0 e1)
        readEntryChecked l tag e.isSome e s
      | _ => refuse l tag 0x77#8 .badLength s
    else if form = 1#8 then
      match rest with
      | [lesson, position] =>
        readEntryChecked l tag (decide (lesson ≠ 0#8)) (entryAt s lesson.toNat position.toNat) s
      | _ => refuse l tag 0x77#8 .badLength s
    else readEntryChecked l tag false none s

/-- One job record of READ_JOBS, in the order of R158: kind, state, then each field absent where the kind has none. -/
def Job.bytes (j : Job) : List Byte :=
  let fields (slot extent place progress issuer : Option (List Byte)) : List Byte :=
    optional 1 slot ++ optional 2 extent ++ optional 2 place ++ optional 2 progress ++ optional 2 issuer
  match j with
  | .program p => num1 0 ++ num1 p.state.code ++
      fields (some (num1 p.slot.val)) (p.held.map fun h => num2 h.1.val) (some (num1 p.lesson ++ num1 p.position))
        (some (num2 p.progress)) (some (num1 (linkCode p.link) ++ [p.tag]))
  | .read r => num1 1 ++ num1 r.state.code ++
      fields (some (num1 r.slot.val)) (some (num2 r.extent.val)) none (some (num2 r.progress))
        (some (num1 (linkCode r.link) ++ [r.tag]))
  | .withdraw e running => num1 2 ++ num1 (if running then 1 else 0) ++ fields none (some (num2 e.val)) none none none
  | .retire e running => num1 3 ++ num1 (if running then 1 else 0) ++ fields none (some (num2 e.val)) none none none

/-- What READ_JOBS returns from a starting index (R158). -/
def jobsBytes (s : State) (start : Nat) : List Byte :=
  num1 (portState s.port) ++ optional 1 (s.port.command.map fun c => num1 c.kind.code)
    ++ optional 3 (s.port.suspended.map extentBlock) ++ optional 3 (s.port.reclaim.map extentBlock)
    ++ num1 s.port.queue.length ++ ((s.port.queue.drop start).take 8).flatMap Job.bytes

/-- READ_JOBS (R158). -/
def takeReadJobs (l : Link) (tag : Byte) (payload : List Byte) (s : State) : State :=
  match payload with
  | [index] =>
    respond l tag 0x80#8 (if outside index.toNat 0 47 then .clamped else .ok)
      (jobsBytes s (clampNat index.toNat 0 47)) s
  | _ => refuse l tag 0x80#8 .badLength s

def execSaveLesson (l : Link) (tag : Byte) (payload : List Byte) (s : State) : StepOutcome :=
  .next (whenTaken l s (takeSaveLesson l tag payload s))

def execCancelSave (l : Link) (tag : Byte) (payload : List Byte) (s : State) : StepOutcome :=
  .next (whenTaken l s (takeCancelSave l tag payload s))

def execRecall (l : Link) (tag : Byte) (payload : List Byte) (s : State) : StepOutcome :=
  .next (whenTaken l s (takeRecall l tag payload s))

def execRecallLesson (l : Link) (tag : Byte) (payload : List Byte) (s : State) : StepOutcome :=
  .next (whenTaken l s (takeRecallLesson l tag payload s))

def execDeleteArchived (l : Link) (tag : Byte) (payload : List Byte) (s : State) : StepOutcome :=
  .next (whenTaken l s (takeDeleteArchived l tag payload s))

def execRemount (l : Link) (tag : Byte) (payload : List Byte) (s : State) : StepOutcome :=
  .next (whenTaken l s (takeRemount l tag payload s))

def execReadArchive (l : Link) (tag : Byte) (payload : List Byte) (s : State) : StepOutcome :=
  .next (whenTaken l s (takeReadArchive l tag payload s))

def execReadEntry (l : Link) (tag : Byte) (payload : List Byte) (s : State) : StepOutcome :=
  .next (whenTaken l s (takeReadEntry l tag payload s))

def execReadJobs (l : Link) (tag : Byte) (payload : List Byte) (s : State) : StepOutcome :=
  .next (whenTaken l s (takeReadJobs l tag payload s))

end Sys2Proof.Machine
end

