-- ==== Sys2Proof/Machine/Links.lean ====
section
/-!
DEFINITION. Link transactions (R159 to R166, R170) and the three commands that act on a link alone (R168). The course of
a transaction stands in Transactions.lean.
-/

namespace Sys2Proof.Machine

/-- The longest payload of a frame (R161). -/
def payloadLimit : Nat := 60

/-! ## COMMAND transactions -/

/-- A complete frame joins the queue, or overruns (R161); one in progress at a soft reset is discarded (R171). -/
def endCommandFrame (l : Link) (f : Frame) (_extra : Nat) (t : Transaction) (s : State) : State :=
  let k := s.links.get l
  if t.cut then s
  else if k.commands.length < commandPlaces then s.setLink l { k with commands := k.commands ++ [f] }
  else
    raise .linkOverrun (linkOrigin l) .none
      (some (headerLog (some f.tag) (some f.code) (some (BitVec.ofNat 8 f.payload.length)) f.payload)) s

/-- COMMAND_FRAME (R161). A frame of more than 60 payload bytes is no complete frame (log 3). -/
def execCommandFrame (l : Link) (tag code : Byte) (payload : List Byte) (moment : Moment Nat) (s : State) : StepOutcome :=
  if payloadLimit < payload.length then .next s
  else .next (transact l .command moment (3 + payload.length + ·) noData (endCommandFrame l ⟨tag, code, payload⟩) s)

/-- The header log of a frame that was cut short or declares too long a payload, or none when the bytes received make a
complete frame (R162). The bytes are those of R180 from byte 1 on: tag, code, payload length, payload. -/
def malformedLog : List Byte → Option HeaderLog
  | tag :: code :: length :: payload =>
    if payloadLimit < length.toNat then some (headerLog (some tag) (some code) (some length) [])
    else if payload.length < length.toNat then some (headerLog (some tag) (some code) (some length) payload)
    else none
  | [tag, code] => some (headerLog (some tag) (some code) none [])
  | [tag] => some (headerLog (some tag) none none [])
  | [] => some (headerLog none none none [])

/-- Whether a moment can belong to a malformed frame: at the end, the bytes received make none complete (R162). -/
def malformedMoment : Moment (List Byte) → Bool
  | .ends received => (malformedLog received).isSome
  | .falls | .clocks _ => true

/-- A malformed frame is discarded with its fault (R162); one in progress at a soft reset without it (R171). -/
def endMalformedFrame (l : Link) (received : List Byte) (t : Transaction) (s : State) : State :=
  if t.cut then s else raise .malformedFrame (linkOrigin l) .none (malformedLog received) s

/-- MALFORMED_COMMAND_FRAME (R162): the bytes received after the kind byte. -/
def execMalformedCommandFrame (l : Link) (moment : Moment (List Byte)) (s : State) : StepOutcome :=
  if malformedMoment moment then .next (transact l .command moment List.length noData (endMalformedFrame l) s) else .next s

/-- UNKNOWN_KIND (R159): MALFORMED_FRAME is raised at the kind byte, and the rest is ignored. -/
def execUnknownKind (l : Link) (kind : Byte) (moment : Moment Nat) (s : State) : StepOutcome :=
  if knownKind kind then .next s else .next (transact l .unknown moment id noData (fun _ _ s => s) s)

/-! ## FETCH and LINK_RESET -/

/-- The bytes of the record that a FETCH took, or of the empty marker (R164). -/
def fetchData : OwnData := fun t clocked _ =>
  (match t.record with
    | some r => r.bytes
    | none => emptyMarker).take clocked

/-- The end of a FETCH (R164): the record it took leaves the queue when clocked out whole; one that a soft reset cut removes
none (R171). -/
def endFetch (l : Link) (clocked : Nat) (t : Transaction) (s : State) : State :=
  match t.record with
  | none => s
  | some r =>
    if t.cut = false ∧ r.bytes.length ≤ clocked then
      s.setLink l { s.links.get l with responses := (s.links.get l).responses.tail }
    else s

/-- FETCH (R164, R166). -/
def execFetch (l : Link) (moment : Moment Nat) (s : State) : StepOutcome :=
  .next (transact l .fetch moment id fetchData (endFetch l) s)

/-- A link's record after a link reset (R170). -/
def linkCleared (k : LinkState) : LinkState := { LinkState.reset with miso := k.miso }

/-- A link's record after a soft reset: cleared as by a link reset, a transaction in progress cut (R171). -/
def linkSoftCleared (k : LinkState) : LinkState :=
  { linkCleared k with transaction := k.transaction.map Transaction.cutOff }

/-- What a link reset does, but for the MISO bytes of its own transaction (R170). -/
def resetLink (l : Link) (s : State) : State :=
  let s := endExport l s
  s.withComp (compositorLinkReset l s.comp) |>.setLink l (linkCleared (s.links.get l))

/-- LINK_RESET (R170) takes effect at the end of its transaction. -/
def execLinkReset (l : Link) (moment : Moment Nat) (s : State) : StepOutcome :=
  .next (transact l .linkReset moment id noData (fun _ _ s => resetLink l s) s)

/-! ## Link commands (R168) -/

/-- SET_WATERMARK (R168). -/
def takeSetWatermark (l : Link) (tag : Byte) (payload : List Byte) (s : State) : State :=
  match payload with
  | [v] =>
    let w := clampNat v.toNat 1 16
    s.setLink l { s.links.get l with watermark := w }
      |> respond l tag 0x90#8 (if outside v.toNat 1 16 then .clamped else .ok) (num1 w)
  | _ => refuse l tag 0x90#8 .badLength s

/-- SET_EVENT_MASK (R168, R182). -/
def takeSetEventMask (l : Link) (tag : Byte) (payload : List Byte) (s : State) : State :=
  match payload with
  | [b0, b1] =>
    let n := read2 b0 b1
    if 4096 ≤ n then refuse l tag 0x91#8 .badArgument s
    else s.setLink l { s.links.get l with mask := BitVec.ofNat 12 n } |> respond l tag 0x91#8 .ok (num2 n)
  | _ => refuse l tag 0x91#8 .badLength s

/-- What READ_LINK returns, in the order of R168; the response count is the one after its own response is placed. -/
def linkBytes (s : State) (l : Link) : List Byte :=
  let k := s.links.get l
  num1 k.commands.length ++ num1 (k.responses.length + 1) ++ num1 k.watermark ++ num2 k.mask.toNat ++ flag k.eventsLost
    ++ optional 5 (k.exporting.map fun x => num1 x.slot.val ++ num4 x.offset) ++ flag (s.comp.staged.get l).isSome

/-- READ_LINK (R168). -/
def takeReadLink (l : Link) (tag : Byte) (_payload : List Byte) (s : State) : State :=
  respond l tag 0x92#8 .ok (linkBytes s l) s

def execSetWatermark (l : Link) (tag : Byte) (payload : List Byte) (s : State) : StepOutcome :=
  .next (whenTaken l s (takeSetWatermark l tag payload s))

def execSetEventMask (l : Link) (tag : Byte) (payload : List Byte) (s : State) : StepOutcome :=
  .next (whenTaken l s (takeSetEventMask l tag payload s))

def execReadLink (l : Link) (tag : Byte) (payload : List Byte) (s : State) : StepOutcome :=
  .next (whenTaken l s (takeReadLink l tag payload s))

end Sys2Proof.Machine
end

