-- ==== Sys2Proof/Decode.lean ====
section
/-!
DEFINITION. What a word of the command table spells, the row that a transaction's bytes make (R180), and the command that a
frame's code names (R183). No row of spec/opcode_table.json gives bits, so no word spells a command.
-/

namespace Sys2Proof

/-- The command that the table's bits spell: none, since no row has bits. -/
def decodeTableWord (_nbits _w : Nat) : Option Instr := none

/-- The row of a whole COMMAND transaction, by the bytes after the kind byte (R180): tag, command code, payload length, and that
many payload bytes; bytes clocked after a complete frame are only counted (R161), and any other frame is malformed (R162). -/
def commandRow (l : Link) (received : List Byte) : Instr :=
  match received, Machine.malformedLog received with
  | tag :: code :: length :: rest, none =>
    .commandFrame l tag code (rest.take length.toNat) (.ends (rest.length - length.toNat))
  | _, _ => .malformedCommandFrame l (.ends received)

/-- The row of a whole transaction, by the bytes that the master sends in it (R180); none without a whole kind byte (R159). -/
def transactionRow (l : Link) (bytes : List Byte) : Option Instr :=
  match bytes with
  | [] => none
  | kind :: rest =>
    match Machine.readKind kind with
    | .command => some (commandRow l rest)
    | .fetch => some (.fetch l (.ends rest.length))
    | .bulk => some (.bulk l (.ends rest.length))
    | .linkReset => some (.linkReset l (.ends rest.length))
    | .unknown => some (.unknownKind l kind (.ends rest.length))

/-- The command that a frame of a link names by its code (R163, R183). -/
def instrOf (l : Link) (f : Machine.Frame) : Instr :=
  match f.code.toNat with
  | 0x10 => .readIntake l f.tag f.payload
  | 0x20 => .writeProfile l f.tag f.payload
  | 0x21 => .readProfile l f.tag f.payload
  | 0x22 => .selectProfile l f.tag f.payload
  | 0x23 => .readTile l f.tag f.payload
  | 0x24 => .readConditioner l f.tag f.payload
  | 0x30 => .zoomTo l f.tag f.payload
  | 0x31 => .panBy l f.tag f.payload
  | 0x32 => .setRotation l f.tag f.payload
  | 0x33 => .readView l f.tag f.payload
  | 0x40 => .stageLayout l f.tag f.payload
  | 0x41 => .stagePane l f.tag f.payload
  | 0x42 => .discardStage l f.tag f.payload
  | 0x43 => .apply l f.tag f.payload
  | 0x44 => .freeze l f.tag f.payload
  | 0x45 => .unfreeze l f.tag f.payload
  | 0x46 => .readPresentation l f.tag f.payload
  | 0x50 => .setLamp l f.tag f.payload
  | 0x51 => .setLampSense l f.tag f.payload
  | 0x52 => .writeOverride l f.tag f.payload
  | 0x53 => .clearOverride l f.tag f.payload
  | 0x54 => .readGuard l f.tag f.payload
  | 0x60 => .setClock l f.tag f.payload
  | 0x61 => .capture l f.tag f.payload
  | 0x62 => .deleteSlot l f.tag f.payload
  | 0x63 => .readSlot l f.tag f.payload
  | 0x64 => .readStore l f.tag f.payload
  | 0x65 => .readLesson l f.tag f.payload
  | 0x66 => .lessonInsert l f.tag f.payload
  | 0x67 => .lessonRemove l f.tag f.payload
  | 0x68 => .lessonMove l f.tag f.payload
  | 0x69 => .lessonClear l f.tag f.payload
  | 0x6A => .setInterval l f.tag f.payload
  | 0x6B => .stopInterval l f.tag f.payload
  | 0x6C => .exportSlot l f.tag f.payload
  | 0x6D => .cancelExport l f.tag f.payload
  | 0x70 => .saveLesson l f.tag f.payload
  | 0x71 => .cancelSave l f.tag f.payload
  | 0x72 => .recall l f.tag f.payload
  | 0x73 => .recallLesson l f.tag f.payload
  | 0x74 => .deleteArchived l f.tag f.payload
  | 0x75 => .remount l f.tag f.payload
  | 0x76 => .readArchive l f.tag f.payload
  | 0x77 => .readEntry l f.tag f.payload
  | 0x80 => .readJobs l f.tag f.payload
  | 0x90 => .setWatermark l f.tag f.payload
  | 0x91 => .setEventMask l f.tag f.payload
  | 0x92 => .readLink l f.tag f.payload
  | 0x93 => .partReset l f.tag f.payload
  | 0xA0 => .readFaults l f.tag f.payload
  | 0xA1 => .clearFaults l f.tag f.payload
  | 0xA2 => .setFaultPolicy l f.tag f.payload
  | _ => .unknownCommand l f.tag f.code f.payload

end Sys2Proof
end

