-- ==== Sys2Proof/Machine/FaultCommands.lean ====
section
/-!
DEFINITION. The Fault Recorder's commands (R177, R178), and the end of HALTED (R176).
-/

namespace Sys2Proof.Machine

/-- The record and next-error flag of a class as READ_FAULTS and CLEAR_FAULTS give them. -/
def recordBytes (r : Option FaultRecord) : List Byte := optional 27 (r.map FaultRecord.bytes)

def noticeBytes (f : Faults) : List Byte := f.notices.data.flatMap flag

def FaultPolicy.bytes (p : FaultPolicy) : List Byte := flag p.masked ++ num1 p.severity.code

/-- What READ_FAULTS returns, in the order of R178. -/
def faultsBytes (s : State) : List Byte :=
  let f := s.faults
  recordBytes f.error ++ recordBytes f.fatal ++ flag f.errorNext ++ flag f.fatalNext ++ noticeBytes f
    ++ f.policy.data.flatMap FaultPolicy.bytes
    ++ num1 f.steering.notice.code ++ num1 f.steering.error.code ++ num1 f.steering.fatal.code ++ flag (halted s)

/-- READ_FAULTS (R178). -/
def takeReadFaults (l : Link) (tag : Byte) (_payload : List Byte) (s : State) : State :=
  respond l tag 0xA0#8 .ok (faultsBytes s) s

/-- A class's state as CLEAR_FAULTS answers it (R178). -/
def classBytes (f : Faults) : FaultClass → List Byte
  | .notice => noticeBytes f
  | .error => recordBytes f.error ++ flag f.errorNext
  | .fatal => recordBytes f.fatal ++ flag f.fatalNext

/-- A class emptied (R178). -/
def emptyClass (f : Faults) : FaultClass → Faults
  | .notice => { f with notices := .replicate 15 false }
  | .error => { f with error := none, errorNext := false }
  | .fatal => { f with fatal := none, fatalNext := false }

/-- HALTED ends: the Page Mover starts its head request and the Flash Port reaches a decision point (R176). -/
def endHalted (s : State) : State := s |> startCopy |> goOn

/-- CLEAR_FAULTS (R178). -/
def takeClearFaults (l : Link) (tag : Byte) (payload : List Byte) (s : State) : State :=
  match payload with
  | [cls] =>
    match readClass cls with
    | none => refuse l tag 0xA1#8 .badArgument s
    | some c =>
      let t := s.withFaults (emptyClass s.faults c) |> respond l tag 0xA1#8 .ok (classBytes s.faults c)
      if halted s && decide (c = .fatal) then endHalted t else t
  | _ => refuse l tag 0xA1#8 .badLength s

/-- The policy DRAM_FAILURE must keep (R177). -/
def policyAllowed (kind : Fin 15) (p : FaultPolicy) : Bool :=
  decide (kind ≠ FaultKind.index .dramFailure) || (!p.masked && decide (p.severity = .fatal))

/-- The steering with one class's value replaced. -/
def SteeringTable.set (t : SteeringTable) (c : FaultClass) (v : Steering) : SteeringTable :=
  match c with
  | .notice => { t with notice := v }
  | .error => { t with error := v }
  | .fatal => { t with fatal := v }

/-- SET_FAULT_POLICY for a kind (R177). -/
def setPolicy (l : Link) (tag : Byte) (kind mask severity : Byte) (s : State) : State :=
  match readBelow 15 kind.toNat, readFlag mask, readClass severity with
  | some k, some masked, some severity =>
    let p : FaultPolicy := { masked, severity }
    if policyAllowed k p then
      s.withFaults { s.faults with policy := s.faults.policy.set k p } |> respond l tag 0xA2#8 .ok p.bytes
    else refuse l tag 0xA2#8 .badArgument s
  | _, _, _ => refuse l tag 0xA2#8 .badArgument s

/-- SET_FAULT_POLICY for a class (R177). -/
def setSteering (l : Link) (tag : Byte) (cls steering : Byte) (s : State) : State :=
  match readClass cls, readSteering steering with
  | some c, some v =>
    s.withFaults { s.faults with steering := s.faults.steering.set c v } |> respond l tag 0xA2#8 .ok (num1 v.code)
  | _, _ => refuse l tag 0xA2#8 .badArgument s

/-- SET_FAULT_POLICY (R177): form 0 with kind, mask and severity, or form 1 with class and steering (R182). -/
def takeSetFaultPolicy (l : Link) (tag : Byte) (payload : List Byte) (s : State) : State :=
  match payload with
  | [] => refuse l tag 0xA2#8 .badLength s
  | form :: rest =>
    if form = 0#8 then
      match rest with
      | [kind, mask, severity] => setPolicy l tag kind mask severity s
      | _ => refuse l tag 0xA2#8 .badLength s
    else if form = 1#8 then
      match rest with
      | [cls, steering] => setSteering l tag cls steering s
      | _ => refuse l tag 0xA2#8 .badLength s
    else refuse l tag 0xA2#8 .badArgument s

def execReadFaults (l : Link) (tag : Byte) (payload : List Byte) (s : State) : StepOutcome :=
  .next (whenTaken l s (takeReadFaults l tag payload s))

def execClearFaults (l : Link) (tag : Byte) (payload : List Byte) (s : State) : StepOutcome :=
  .next (whenTaken l s (takeClearFaults l tag payload s))

def execSetFaultPolicy (l : Link) (tag : Byte) (payload : List Byte) (s : State) : StepOutcome :=
  .next (whenTaken l s (takeSetFaultPolicy l tag payload s))

end Sys2Proof.Machine
end

