-- ==== Sys2Proof/Machine/Conditioner.lean ====
section
/-!
DEFINITION. The Page Conditioner (R17 to R39): latching and gains at a frame start, histograms and pixels of a line, the
paper-white map at a completion. Levels and gains are numbers; formulas stand as the rules give them.
-/

namespace Sys2Proof.Machine

/-! ## Gains (R31, R32) -/

/-- The tile gain of a paper estimate (R31). -/
def tileGain (p : Profile) (paper : Nat) : Nat :=
  if paper < 4 * p.floor then 256 else clampNat ((1024 * p.white + paper / 2) / paper) 256 p.gmax

/-- The number of tile (i, j) (R24). -/
def tileNumber (i : Fin 32) (j : Fin 24) : Fin 768 := ⟨32 * j.val + i.val, by omega⟩

/-- The gain of tile (i, j), or 256 outside the tiles. -/
def gainOf (gains : Table Nat 768) (i j : Nat) : Nat :=
  if h : i < 32 ∧ j < 24 then gains.get (tileNumber ⟨i, h.1⟩ ⟨j, h.2⟩) else 256

/-- The lower tile and the weight of the upper one for a coordinate (R32): `top` is 30 for columns and 22 for rows. -/
def tileWeight (x : Nat) (top : Int) : Nat × Nat :=
  let i := clampInt (floorDiv ((x : Int) - 64) 128) 0 top
  (i.toNat, (clampInt ((x : Int) - (128 * i + 64)) 0 128).toNat)

/-- The interpolated gain of the pixel at (x, y) (R32). -/
def pixelGain (gains : Table Nat 768) (x y : Nat) : Nat :=
  let (i, ax) := tileWeight x 30
  let (j, ay) := tileWeight y 22
  ((128 - ax) * (128 - ay) * gainOf gains i j + ax * (128 - ay) * gainOf gains (i + 1) j
    + (128 - ax) * ay * gainOf gains i (j + 1) + ax * ay * gainOf gains (i + 1) (j + 1) + 8192) / 16384

/-! ## Pixels (R33 to R36) -/

/-- Normalise (R33). -/
def normalise (level gain : Nat) : Nat := min 255 ((level * gain + 128) / 256)

/-- The level at column `x` of a row, the nearest pixel inside for a column outside (R34). -/
def levelAt (row : List Nat) (x : Int) : Nat := row.getD (clampInt x 0 ((row.length : Int) - 1)).toNat 0

/-- The blur of column `x` over the rows above, at and below (R34). -/
def blur (above row below : List Nat) (x : Int) : Nat :=
  (levelAt above (x - 1) + 2 * levelAt above x + levelAt above (x + 1)
    + 2 * levelAt row (x - 1) + 4 * levelAt row x + 2 * levelAt row (x + 1)
    + levelAt below (x - 1) + 2 * levelAt below x + levelAt below (x + 1) + 8) / 16

/-- The cored detail (R34). -/
def core (detail threshold : Int) : Int :=
  if detail > threshold then detail - threshold else if detail < -threshold then detail + threshold else 0

/-- The sharpened luma from Y1 and its blur (R34). -/
def sharpen (p : Profile) (y1 b : Nat) : Nat :=
  let d := core ((y1 : Int) - b) p.coring
  (clampInt ((y1 : Int) + floorDiv (d * p.sharpen + 8) 16) 0 255).toNat

/-- The ink curve (R35). -/
def inkCurve (p : Profile) (y2 : Nat) : Nat :=
  if p.ink = false then y2
  else if y2 ≤ p.black then 0
  else if p.white ≤ y2 then 255
  else ((y2 - p.black) * 255 + (p.white - p.black) / 2) / (p.white - p.black)

/-- The chroma factor (R36). -/
def chromaLevel (p : Profile) (c : Nat) : Nat :=
  (clampInt (128 + floorDiv (((c : Int) - 128) * p.chroma + 8) 16) 0 255).toNat

/-- One conditioned luma row from the Y1 rows above, at and below it (R34, R35, R37). -/
def conditionedRow (p : Profile) (above row below : List Nat) : List Byte :=
  List.zipWith (fun (y1 x : Nat) => BitVec.ofNat 8 (inkCurve p (sharpen p y1 (blur above row below x)))) row
    (List.range row.length)

/-- One conditioned chroma row from the chroma of two lines (R4, R36). -/
def conditionedChroma (p : Profile) (even odd : List Nat) : List Byte :=
  List.zipWith (fun a b => BitVec.ofNat 8 (chromaLevel p ((a + b + 1) / 2))) even odd

/-! ## Lines (R1, R24, R37) -/

/-- The luma samples of a line: two of each pixel pair Cb, Y, Cr, Y (R1). -/
def lineLuma : List Byte → List Nat
  | _ :: y0 :: _ :: y1 :: rest => y0.toNat :: y1.toNat :: lineLuma rest
  | _ => []

/-- The chroma samples (Cb, Cr) of a line, one of each pixel pair (R1). -/
def lineChroma : List Byte → List (Nat × Nat)
  | cb :: _ :: cr :: _ :: rest => (cb.toNat, cr.toNat) :: lineChroma rest
  | _ => []

/-- The histograms after the luma of line `y`: each tile of the line's tile row counts its 128 samples (R24). -/
def countLine (h : Table (Table Nat 16) 768) (y : Nat) (luma : List Nat) : Table (Table Nat 16) 768 :=
  Table.tabulate 768 fun t =>
    if t.val / 32 = y / 128 then
      let part := (luma.drop (128 * (t.val % 32))).take 128
      Table.tabulate 16 fun b => (h.get t).get b + part.countP fun v => decide (v / 16 = b.val)
    else h.get t

/-- The Y1 row of line `y` (R32, R33). -/
def normalisedRow (c : Conditioner) (y : Nat) (luma : List Nat) : List Nat :=
  List.zipWith (fun v x => normalise v (pixelGain c.gains x y)) luma (List.range luma.length)

/-- The rows that whole line `y` lets the Conditioner write into the target buffer (R4, R37). -/
def writeRows (c : Conditioner) (y : Nat) (row : List Nat) (chroma : List (Nat × Nat)) (b : Fin 4) (r : Ring) : Ring :=
  let p := c.latched
  let r := if y = 0 then r
    else ringWrite r b (4096 * (y - 1)) (conditionedRow p (if y = 1 then c.y1Last else c.y1Above) c.y1Last row)
  let r := if y = 3071 then ringWrite r b (4096 * y) (conditionedRow p c.y1Last row row) else r
  if y % 2 = 1 then
    let r := ringWrite r b (Config.cbBase + 2048 * (y / 2))
      (conditionedChroma p (c.chromaEven.map Prod.fst) (chroma.map Prod.fst))
    ringWrite r b (Config.crBase + 2048 * (y / 2)) (conditionedChroma p (c.chromaEven.map Prod.snd) (chroma.map Prod.snd))
  else r

/-- A whole line `y` with its first 8,192 samples goes through the Conditioner into buffer `b` (R3, R4, R24, R37). -/
def takeLine (y : Nat) (samples : List Byte) (b : Fin 4) (s : State) : State :=
  let used := samples.take 8192
  let luma := lineLuma used
  let chroma := lineChroma used
  let c := s.cond
  let row := normalisedRow c y luma
  s.withRing (writeRows c y row chroma b s.ring)
    |>.withCond { c with histograms := countLine c.histograms y luma, y1Above := c.y1Last, y1Last := row,
                         chromaEven := if y % 2 = 0 then chroma else c.chromaEven }

/-! ## Frame boundaries -/

/-- At a frame start the live profile is latched, the histograms are cleared and the gain table is formed (R23, R31). -/
def latchProfile (c : Conditioner) : Conditioner :=
  let p := c.profiles.get c.live
  { c with latched := p, latchedNumber := c.live, histograms := .replicate 768 (.replicate 16 0),
           gains := c.map.map (tileGain p), y1Above := [], y1Last := [], chromaEven := [] }

/-- The raw paper estimate of a tile: the smallest bin with fewer than 2,048 pixels above it (R25). -/
def rawEstimate (h : Table Nat 16) : Nat :=
  16 * (((List.range 16).find? fun b => decide ((h.data.drop (b + 1)).sum < 2048)).getD 15) + 15

/-- The map with every P_t set to 4 P_raw (R27, R28). -/
def loadedMap (raw : Table Nat 768) : Table Nat 768 := raw.map (4 * ·)

/-- Tiles that moved by more than 64 quarter levels (R28). -/
def movedTiles (map raw : Table Nat 768) : Nat :=
  (List.zipWith (fun (p r : Nat) => decide (p + 64 < 4 * r ∨ 4 * r + 64 < p)) map.data raw.data).countP id

/-- One smoothed estimate (R29). -/
def smoothed (k paper raw : Nat) : Nat := ((paper : Int) + truncDiv ((((4 * raw : Nat) : Int) - paper) * k) 8).toNat

/-- The smoothed map (R29). -/
def smoothedMap (k : Nat) (map raw : Table Nat 768) : Table Nat 768 :=
  Table.tabulate 768 fun t => smoothed k (map.get t) (raw.get t)

/-- The Conditioner's part of a completion into buffer `b` with frame number `frame` (R25 to R29). A completion that
carries the loss-ended mark first unprimes the map (R8, R26). -/
def completeStatistics (b : Fin 4) (frame : Nat) (lossEnded : Bool) (s : State) : State :=
  let c := s.cond
  let raw := c.histograms.map rawEstimate
  let c := { c with lastRaw := raw, bufferProfile := c.bufferProfile.set b c.latchedNumber }
  if lossEnded || !c.primed then s.withCond { c with map := loadedMap raw, primed := true }
  else
    let moved := movedTiles c.map raw
    if 384 < moved then
      let count := satSucc 65535 c.sceneChanges
      s.withCond { c with map := loadedMap raw, sceneChanges := count } |> postByMask (.sceneChange frame moved count)
    else s.withCond { c with map := smoothedMap c.latched.smooth c.map raw }

/-- The Conditioner after a soft reset (R18, R23, R26). -/
def conditionerAfterReset (c : Conditioner) : Conditioner :=
  { c with latched := c.profiles.get c.live, latchedNumber := c.live, histograms := .replicate 768 (.replicate 16 0),
           map := .replicate 768 1020, lastRaw := .replicate 768 255, gains := .replicate 768 256, primed := false,
           bufferProfile := .replicate 4 0, y1Above := [], y1Last := [], chromaEven := [] }

/-! ## Commands -/

/-- What WRITE_PROFILE's values say, in the order of R17: the profile with the named values clamped and written, whether a
clamp changed one, whether an ink value was neither on nor off, and whether the bytes fitted the fields named. -/
structure ProfileWrite where
  profile : Profile
  clamped : Bool
  badInk : Bool
  fits : Bool
deriving DecidableEq, Repr

/-- A number put into a field after the clamp into the field's range (R17). -/
def writeField (lo hi : Nat) (set : Nat → Profile → Profile) (v : Nat) (w : ProfileWrite) : ProfileWrite :=
  { w with profile := set (clampNat v lo hi) w.profile, clamped := w.clamped || outside v lo hi }

/-- Take one one-byte value, if its bit is set. -/
def takeValue (named : Bool) (lo hi : Nat) (set : Nat → Profile → Profile) (w : ProfileWrite × List Byte) :
    ProfileWrite × List Byte :=
  if named then
    match w.2 with
    | v :: rest => (writeField lo hi set v.toNat w.1, rest)
    | [] => ({ w.1 with fits := false }, [])
  else w

/-- Take the two-byte Gmax, if its bit is set. -/
def takeGmax (named : Bool) (w : ProfileWrite × List Byte) : ProfileWrite × List Byte :=
  if named then
    match w.2 with
    | b0 :: b1 :: rest => (writeField 256 1024 (fun v q => { q with gmax := v }) (read2 b0 b1) w.1, rest)
    | _ => ({ w.1 with fits := false }, [])
  else w

/-- Take the ink value, if its bit is set. -/
def takeInk (named : Bool) (w : ProfileWrite × List Byte) : ProfileWrite × List Byte :=
  if named then
    match w.2 with
    | v :: rest =>
      match readFlag v with
      | some on => ({ w.1 with profile := { w.1.profile with ink := on } }, rest)
      | none => ({ w.1 with badInk := true }, rest)
    | [] => ({ w.1 with fits := false }, [])
  else w

/-- The named values read in order from the payload after the presence set (R19, R182). -/
def readProfileWrite (p : Profile) (presence : Nat) (values : List Byte) : ProfileWrite :=
  let named (i : Nat) : Bool := presence.testBit i
  let w := (⟨p, false, false, true⟩, values)
    |> takeValue (named 0) 160 255 (fun v q => { q with white := v })
    |> takeGmax (named 1)
    |> takeValue (named 2) 0 128 (fun v q => { q with floor := v })
    |> takeValue (named 3) 1 8 (fun v q => { q with smooth := v })
    |> takeValue (named 4) 0 31 (fun v q => { q with coring := v })
    |> takeValue (named 5) 0 64 (fun v q => { q with sharpen := v })
    |> takeInk (named 6)
    |> takeValue (named 7) 0 96 (fun v q => { q with black := v })
    |> takeValue (named 8) 0 16 (fun v q => { q with chroma := v })
  if w.2.isEmpty then w.1 else { w.1 with fits := false }

/-- The margin between W and K with the ink curve on (R20). -/
def inkMargin (p : Profile) : Profile :=
  if p.ink = true ∧ p.white < p.black + 64 then { p with black := p.white - 64 } else p

/-- WRITE_PROFILE (R19, R20), checks in the order of R19's list (log 8). -/
def takeWriteProfile (l : Link) (tag : Byte) (payload : List Byte) (s : State) : State :=
  match payload with
  | number :: p0 :: p1 :: values =>
    let presence := read2 p0 p1
    match readBelow 4 number.toNat with
    | none => refuse l tag 0x20#8 .badArgument s
    | some n =>
      if 512 ≤ presence then refuse l tag 0x20#8 .badArgument s
      else
        let w := readProfileWrite (s.cond.profiles.get n) presence values
        if w.badInk then refuse l tag 0x20#8 .badArgument s
        else if !w.fits then refuse l tag 0x20#8 .badLength s
        else
          let p := inkMargin w.profile
          s.withCond { s.cond with profiles := s.cond.profiles.set n p }
            |> respond l tag 0x20#8 (if w.clamped = false ∧ p = w.profile then .ok else .clamped)
                (num1 n.val ++ p.bytes)
  | _ => refuse l tag 0x20#8 .badLength s

/-- READ_PROFILE (R21). -/
def takeReadProfile (l : Link) (tag : Byte) (payload : List Byte) (s : State) : State :=
  match payload with
  | [number] =>
    match readBelow 4 number.toNat with
    | none => refuse l tag 0x21#8 .badArgument s
    | some n => respond l tag 0x21#8 .ok ((s.cond.profiles.get n).bytes ++ flag (decide (n = s.cond.live))) s
  | _ => refuse l tag 0x21#8 .badLength s

/-- SELECT_PROFILE (R22). -/
def takeSelectProfile (l : Link) (tag : Byte) (payload : List Byte) (s : State) : State :=
  match payload with
  | [number] =>
    match readBelow 4 number.toNat with
    | none => refuse l tag 0x22#8 .badArgument s
    | some n => respond l tag 0x22#8 .ok [] (s.withCond { s.cond with live := n })
  | _ => refuse l tag 0x22#8 .badLength s

/-- READ_TILE (R38). -/
def takeReadTile (l : Link) (tag : Byte) (payload : List Byte) (s : State) : State :=
  match payload with
  | [column, row] =>
    match readBelow 32 column.toNat, readBelow 24 row.toNat with
    | some i, some j =>
      let t := tileNumber i j
      respond l tag 0x23#8 .ok
        (num2 (s.cond.map.get t) ++ num1 (s.cond.lastRaw.get t) ++ num2 (s.cond.gains.get t) ++ flag s.cond.primed) s
    | _, _ => refuse l tag 0x23#8 .badArgument s
  | _ => refuse l tag 0x23#8 .badLength s

/-- READ_CONDITIONER (R39). -/
def takeReadConditioner (l : Link) (tag : Byte) (_payload : List Byte) (s : State) : State :=
  respond l tag 0x24#8 .ok
    (num1 s.cond.live.val ++ num1 s.cond.latchedNumber.val ++ num2 s.cond.sceneChanges ++ flag s.cond.primed) s

def execWriteProfile (l : Link) (tag : Byte) (payload : List Byte) (s : State) : StepOutcome :=
  .next (whenTaken l s (takeWriteProfile l tag payload s))

def execReadProfile (l : Link) (tag : Byte) (payload : List Byte) (s : State) : StepOutcome :=
  .next (whenTaken l s (takeReadProfile l tag payload s))

def execSelectProfile (l : Link) (tag : Byte) (payload : List Byte) (s : State) : StepOutcome :=
  .next (whenTaken l s (takeSelectProfile l tag payload s))

def execReadTile (l : Link) (tag : Byte) (payload : List Byte) (s : State) : StepOutcome :=
  .next (whenTaken l s (takeReadTile l tag payload s))

def execReadConditioner (l : Link) (tag : Byte) (payload : List Byte) (s : State) : StepOutcome :=
  .next (whenTaken l s (takeReadConditioner l tag payload s))

end Sys2Proof.Machine
end

