-- ==== Sys2Proof/Machine/Intake.lean ====
section
/-!
DEFINITION. The Camera Intake (R1 to R10): frame starts, lines, the two timers, truncation, completion, the loss, and
READ_INTAKE. A timer holds the milliseconds it was loaded with (log 5).
-/

namespace Sys2Proof.Machine

/-- The intake-watch timer's load in milliseconds (R7). -/
def watchLoad : Nat := 200

/-- The line-gap timer's load in milliseconds (R2, R3). -/
def gapLoad : Nat := 5

/-- Lines of a frame and samples of a line (R1, R5). -/
def frameLines : Nat := 3072

def lineSamples : Nat := 8192

/-- The Intake in BETWEEN with no frame and the intake-watch timer loaded (R5, R6, R7, R9). -/
def toBetween (i : Intake) : Intake :=
  { i with state := .between, lineCount := 0, target := none, watch := some watchLoad, lineGap := none, lineOpen := false }

/-- The Intake after a soft reset, and when it leaves STOPPED (R9). -/
def intakeAfterReset : Intake := toBetween Intake.reset

/-- The Conditioner drops the statistics gathered on the frame; the map stands (R6, R24). -/
def discardStatistics (c : Conditioner) : Conditioner := { c with histograms := .replicate 768 (.replicate 16 0) }

/-- The frame in progress ends as truncated (R6): buffer FREE, statistics dropped, count, fault, and BETWEEN. A frame start
then begins the new frame at once. -/
def truncate (s : State) : State :=
  let i := s.intake
  let s := match i.target with
    | some b => s.withRing (ringFree s.ring b)
    | none => s
  s.withCond (discardStatistics s.cond)
    |>.withIntake (toBetween { i with truncated := satSucc 65535 i.truncated })
    |> raiseInternal .intakeTruncated .none

/-- A frame begins (R2): the ring gives a buffer (R12) and the Conditioner latches the live profile (R23, R31). -/
def beginFrame (s : State) : StepOutcome :=
  match ringChoice s.ring with
  | none => .fault .ringHasNoBuffer
  | some b =>
    .next (s.withRing (ringTake s.ring b)
      |>.withIntake { s.intake with state := .inFrame, lineCount := 0, target := some b, watch := none,
                                    lineGap := some gapLoad, lineOpen := false }
      |>.withCond (latchProfile s.cond))

/-- CAMERA_FRAME_START (R2). -/
def execCameraFrameStart (s : State) : StepOutcome :=
  match s.intake.state with
  | .stopped => .next s
  | .between => beginFrame s
  | .inFrame => beginFrame (truncate s)

/-- CAMERA_LINE_START (R3): a line in IN_FRAME loads the line-gap timer. -/
def execCameraLineStart (s : State) : StepOutcome :=
  match s.intake.state with
  | .inFrame => .next (s.withIntake { s.intake with lineGap := some gapLoad, lineOpen := true })
  | .between | .stopped => .next s

/-- The frame completes in buffer `b` (R5): counter, ring, statistics with the loss-ended mark, end of the loss (R8). -/
def completeFrame (b : Fin 4) (s : State) : State :=
  let i := s.intake
  let frame := wrapSucc i.frameCounter
  s.withRing (ringComplete s.ring b frame)
    |>.withIntake (toBetween { i with frameCounter := frame, loss := false, lossEnded := false })
    |> completeStatistics b frame (i.loss || i.lossEnded)
    |> setLossLevel false

/-- A whole line ends in the frame written into buffer `b` (R3). -/
def endWholeLine (samples : List Byte) (b : Fin 4) (s : State) : State :=
  let i := s.intake
  let s := takeLine i.lineCount samples b s
  if i.lineCount + 1 = frameLines then completeFrame b s
  else s.withIntake { i with lineCount := i.lineCount + 1, lineGap := some gapLoad, lineOpen := false }

/-- CAMERA_LINE_END (R3): a short line truncates the frame, any other line is whole. A line that did not start in this frame
is not taken (log 25). -/
def execCameraLineEnd (samples : List Byte) (s : State) : StepOutcome :=
  match s.intake.state, s.intake.lineOpen, s.intake.target with
  | .inFrame, true, some b => .next (if samples.length < lineSamples then truncate s else endWholeLine samples b s)
  | _, _, _ => .next s

/-- LINE_GAP_TIMER_EXPIRY (R6). -/
def execLineGapTimerExpiry (s : State) : StepOutcome :=
  match s.intake.state, s.intake.lineGap with
  | .inFrame, some _ => .next (truncate s)
  | _, _ => .next s

/-- INTAKE_WATCH_EXPIRY (R7, R8): the loss begins, or during a loss the timer only stops. -/
def execIntakeWatchExpiry (s : State) : StepOutcome :=
  match s.intake.state, s.intake.watch with
  | .between, some _ =>
    let i := { s.intake with watch := none }
    if i.loss then .next (s.withIntake i)
    else .next (s.withIntake { i with loss := true } |> raiseInternal .intakeLoss .none |> setLossLevel true)
  | _, _ => .next s

/-- The rank of a buffer in the completion list, 0 for the oldest (R10). -/
def completionRank (r : Ring) (b : Fin 4) : Option Nat := r.order.findIdx? fun c => decide (c = b)

/-- What READ_INTAKE returns, in the order of the table of R10. -/
def intakeBytes (s : State) : List Byte :=
  let i := s.intake
  num1 i.state.code ++ num2 i.lineCount ++ num4 i.frameCounter ++ num2 i.truncated ++ flag i.loss
    ++ s.ring.buffers.data.flatMap (fun v => num1 v.state.code)
    ++ s.ring.buffers.data.flatMap (fun v => num4 v.frameNumber)
    ++ s.ring.buffers.data.flatMap (fun v => num1 v.pins)
    ++ (List.finRange 4).flatMap (fun b => optional 1 ((completionRank s.ring b).map num1))

/-- READ_INTAKE (R10). -/
def takeReadIntake (l : Link) (tag : Byte) (_payload : List Byte) (s : State) : State :=
  respond l tag 0x10#8 .ok (intakeBytes s) s

def execReadIntake (l : Link) (tag : Byte) (payload : List Byte) (s : State) : StepOutcome :=
  .next (whenTaken l s (takeReadIntake l tag payload s))

end Sys2Proof.Machine
end

