-- ==== Sys2Proof/Machine/Reset.lean ====
section
/-!
DEFINITION. Power-on reset and the end of STARTING (R172), and the soft reset (R171). Each block's part stands in the
block's own file.
-/

namespace Sys2Proof.Machine

/-- POWER_ON_RESET (R172, R157): every block at its power-on values. Kept are the lesson flash, with what the loss of power
cut in it, the levels on the input pins, the queue of waiting commands and the count of free values. -/
def execPowerOnReset (s : State) : StepOutcome :=
  let t := cutCommand .powerLoss s
  .next (State.reset.withFlash t.flash
    |>.withGuard { Guard.reset with armPin := s.guard.armPin, lampPin := s.guard.lampPin }
    |>.withFreeCount t.freeCount |>.withPending s.pending)

/-- DRAM_CHECK_END (R172): STARTING ends; DRAM_FAILURE if the check failed; the Intake enters BETWEEN (R9), the Guard Unit
reads its pins (R92), the port issues the power-on flash reset (R157) and the first mount begins (R124). -/
def execDramCheckEnd (passed : Bool) (s : State) : StepOutcome :=
  if s.starting then
    let s := s.withStarting false
    let s := if passed then s else raiseInternal .dramFailure .none s
    .next (s.withIntake (toBetween s.intake) |> startReading |> issueReset .powerOn |> beginMount .powerOn)
  else .next s

/-- Both links cleared as by a link reset, transactions in progress cut (R171). Staged sets, applies and exports go with their
blocks' resets. -/
def clearLinks (s : State) : State :=
  s.withLinks ⟨linkSoftCleared s.links.panel, linkSoftCleared s.links.bridge⟩

/-- The soft reset (R171): every block as its chapter gives, then RESET_NOTICE to the link that did not issue it, then the
re-evaluation of the overrides, whose events follow (R93). Fault records and policy stay (R179). The Compositor is reset before
that re-evaluation, so its events and fault records carry output frame number 0 (DEDUCED, log 55). -/
def softReset (issuer : Link) (s : State) : State :=
  s.withIntake intakeAfterReset |>.withRing (ringAfterReset s.ring) |>.withCond (conditionerAfterReset s.cond)
    |>.withView ViewUnit.reset |>.withComp Compositor.reset |>.withStore (storeAfterReset s.store)
    |>.withMover Mover.reset |> archiveAfterReset |> clearLinks
    |> postTo (.resetNotice issuer) (otherLink issuer) |> guardAfterReset

/-- PART_RESET (R171). -/
def takePartReset (l : Link) (tag : Byte) (payload : List Byte) (s : State) : State :=
  if payload.isEmpty then softReset l s else refuse l tag 0x93#8 .badLength s

def execPartReset (l : Link) (tag : Byte) (payload : List Byte) (s : State) : StepOutcome :=
  .next (whenTaken l s (takePartReset l tag payload s))

end Sys2Proof.Machine
end

