-- ==== Sys2Proof/Machine/Taken.lean ====
section
/-!
DEFINITION. Taking the oldest frame of a command queue (R163): the code names the command (R183), and any other code is
answered UNKNOWN_COMMAND.
-/

namespace Sys2Proof.Machine

/-- A code that names no command (R163): its response carries the code as received. -/
def takeUnknown (l : Link) (tag code : Byte) (s : State) : State := refuse l tag code .unknownCommand s

/-- The command that a frame's code names, taken (R183); none for a code that names no command. -/
def takeNamed (l : Link) (f : Frame) (s : State) : Option State :=
  match f.code.toNat with
  | 0x10 => some (takeReadIntake l f.tag f.payload s)
  | 0x20 => some (takeWriteProfile l f.tag f.payload s)
  | 0x21 => some (takeReadProfile l f.tag f.payload s)
  | 0x22 => some (takeSelectProfile l f.tag f.payload s)
  | 0x23 => some (takeReadTile l f.tag f.payload s)
  | 0x24 => some (takeReadConditioner l f.tag f.payload s)
  | 0x30 => some (takeZoomTo l f.tag f.payload s)
  | 0x31 => some (takePanBy l f.tag f.payload s)
  | 0x32 => some (takeSetRotation l f.tag f.payload s)
  | 0x33 => some (takeReadView l f.tag f.payload s)
  | 0x40 => some (takeStageLayout l f.tag f.payload s)
  | 0x41 => some (takeStagePane l f.tag f.payload s)
  | 0x42 => some (takeDiscardStage l f.tag f.payload s)
  | 0x43 => some (takeApply l f.tag f.payload s)
  | 0x44 => some (takeFreeze l f.tag f.payload s)
  | 0x45 => some (takeUnfreeze l f.tag f.payload s)
  | 0x46 => some (takeReadPresentation l f.tag f.payload s)
  | 0x50 => some (takeSetLamp l f.tag f.payload s)
  | 0x51 => some (takeSetLampSense l f.tag f.payload s)
  | 0x52 => some (takeWriteOverride l f.tag f.payload s)
  | 0x53 => some (takeClearOverride l f.tag f.payload s)
  | 0x54 => some (takeReadGuard l f.tag f.payload s)
  | 0x60 => some (takeSetClock l f.tag f.payload s)
  | 0x61 => some (takeCapture l f.tag f.payload s)
  | 0x62 => some (takeDeleteSlot l f.tag f.payload s)
  | 0x63 => some (takeReadSlot l f.tag f.payload s)
  | 0x64 => some (takeReadStore l f.tag f.payload s)
  | 0x65 => some (takeReadLesson l f.tag f.payload s)
  | 0x66 => some (takeLessonInsert l f.tag f.payload s)
  | 0x67 => some (takeLessonRemove l f.tag f.payload s)
  | 0x68 => some (takeLessonMove l f.tag f.payload s)
  | 0x69 => some (takeLessonClear l f.tag f.payload s)
  | 0x6A => some (takeSetInterval l f.tag f.payload s)
  | 0x6B => some (takeStopInterval l f.tag f.payload s)
  | 0x6C => some (takeExportSlot l f.tag f.payload s)
  | 0x6D => some (takeCancelExport l f.tag f.payload s)
  | 0x70 => some (takeSaveLesson l f.tag f.payload s)
  | 0x71 => some (takeCancelSave l f.tag f.payload s)
  | 0x72 => some (takeRecall l f.tag f.payload s)
  | 0x73 => some (takeRecallLesson l f.tag f.payload s)
  | 0x74 => some (takeDeleteArchived l f.tag f.payload s)
  | 0x75 => some (takeRemount l f.tag f.payload s)
  | 0x76 => some (takeReadArchive l f.tag f.payload s)
  | 0x77 => some (takeReadEntry l f.tag f.payload s)
  | 0x80 => some (takeReadJobs l f.tag f.payload s)
  | 0x90 => some (takeSetWatermark l f.tag f.payload s)
  | 0x91 => some (takeSetEventMask l f.tag f.payload s)
  | 0x92 => some (takeReadLink l f.tag f.payload s)
  | 0x93 => some (takePartReset l f.tag f.payload s)
  | 0xA0 => some (takeReadFaults l f.tag f.payload s)
  | 0xA1 => some (takeClearFaults l f.tag f.payload s)
  | 0xA2 => some (takeSetFaultPolicy l f.tag f.payload s)
  | _ => none

/-- A frame's command taken and answered (R163). -/
def takeFrame (l : Link) (f : Frame) (s : State) : State :=
  match takeNamed l f s with
  | some t => t
  | none => takeUnknown l f.tag f.code s

/-- Whether a code names a command (R183). -/
def namesCommand (code : Byte) : Bool :=
  let n := code.toNat
  n = 0x10 || (0x20 ≤ n && n ≤ 0x24) || (0x30 ≤ n && n ≤ 0x33) || (0x40 ≤ n && n ≤ 0x46) || (0x50 ≤ n && n ≤ 0x54)
    || (0x60 ≤ n && n ≤ 0x6D) || (0x70 ≤ n && n ≤ 0x77) || n = 0x80 || (0x90 ≤ n && n ≤ 0x93) || (0xA0 ≤ n && n ≤ 0xA2)

/-- COMMAND_TAKEN (R163): the oldest frame leaves the command queue and is taken. -/
def execCommandTaken (l : Link) (s : State) : StepOutcome :=
  match (s.links.get l).commands with
  | [] => .next s
  | f :: rest =>
    .next (if canTake s l then takeFrame l f (s.setLink l { s.links.get l with commands := rest }) else s)

/-- UNKNOWN_COMMAND (R163): a taken frame whose code names no command; any other frame is not this step (log 3). -/
def execUnknownCommand (l : Link) (tag code : Byte) (_payload : List Byte) (s : State) : StepOutcome :=
  if namesCommand code then .next s else .next (whenTaken l s (takeUnknown l tag code s))

end Sys2Proof.Machine
end

