-- ==== Sys2Proof/Machine/Dispatch.lean ====
section
/-!
DEFINITION. Every command and its meaning: one arm for each constructor of Instr.
-/

namespace Sys2Proof.Machine

/-- The effect of a command on everything but the queue of waiting commands. -/
def exec (i : Instr) (s : State) : Host.Outcome State Fault Refusal :=
  match i with
  | .powerOnReset => Sys2Proof.Machine.execPowerOnReset s
  | .dramCheckEnd passed => Sys2Proof.Machine.execDramCheckEnd passed s
  | .commandFrame link tag code payload moment => Sys2Proof.Machine.execCommandFrame link tag code payload moment s
  | .unknownKind link kind moment => Sys2Proof.Machine.execUnknownKind link kind moment s
  | .fetch link moment => Sys2Proof.Machine.execFetch link moment s
  | .bulk link moment => Sys2Proof.Machine.execBulk link moment s
  | .linkReset link moment => Sys2Proof.Machine.execLinkReset link moment s
  | .commandTaken link => Sys2Proof.Machine.execCommandTaken link s
  | .unknownCommand link tag code payload => Sys2Proof.Machine.execUnknownCommand link tag code payload s
  | .readIntake link tag payload => Sys2Proof.Machine.execReadIntake link tag payload s
  | .writeProfile link tag payload => Sys2Proof.Machine.execWriteProfile link tag payload s
  | .readProfile link tag payload => Sys2Proof.Machine.execReadProfile link tag payload s
  | .selectProfile link tag payload => Sys2Proof.Machine.execSelectProfile link tag payload s
  | .readTile link tag payload => Sys2Proof.Machine.execReadTile link tag payload s
  | .readConditioner link tag payload => Sys2Proof.Machine.execReadConditioner link tag payload s
  | .zoomTo link tag payload => Sys2Proof.Machine.execZoomTo link tag payload s
  | .panBy link tag payload => Sys2Proof.Machine.execPanBy link tag payload s
  | .setRotation link tag payload => Sys2Proof.Machine.execSetRotation link tag payload s
  | .readView link tag payload => Sys2Proof.Machine.execReadView link tag payload s
  | .stageLayout link tag payload => Sys2Proof.Machine.execStageLayout link tag payload s
  | .stagePane link tag payload => Sys2Proof.Machine.execStagePane link tag payload s
  | .discardStage link tag payload => Sys2Proof.Machine.execDiscardStage link tag payload s
  | .apply link tag payload => Sys2Proof.Machine.execApply link tag payload s
  | .freeze link tag payload => Sys2Proof.Machine.execFreeze link tag payload s
  | .unfreeze link tag payload => Sys2Proof.Machine.execUnfreeze link tag payload s
  | .readPresentation link tag payload => Sys2Proof.Machine.execReadPresentation link tag payload s
  | .setLamp link tag payload => Sys2Proof.Machine.execSetLamp link tag payload s
  | .setLampSense link tag payload => Sys2Proof.Machine.execSetLampSense link tag payload s
  | .writeOverride link tag payload => Sys2Proof.Machine.execWriteOverride link tag payload s
  | .clearOverride link tag payload => Sys2Proof.Machine.execClearOverride link tag payload s
  | .readGuard link tag payload => Sys2Proof.Machine.execReadGuard link tag payload s
  | .setClock link tag payload => Sys2Proof.Machine.execSetClock link tag payload s
  | .capture link tag payload => Sys2Proof.Machine.execCapture link tag payload s
  | .deleteSlot link tag payload => Sys2Proof.Machine.execDeleteSlot link tag payload s
  | .readSlot link tag payload => Sys2Proof.Machine.execReadSlot link tag payload s
  | .readStore link tag payload => Sys2Proof.Machine.execReadStore link tag payload s
  | .readLesson link tag payload => Sys2Proof.Machine.execReadLesson link tag payload s
  | .lessonInsert link tag payload => Sys2Proof.Machine.execLessonInsert link tag payload s
  | .lessonRemove link tag payload => Sys2Proof.Machine.execLessonRemove link tag payload s
  | .lessonMove link tag payload => Sys2Proof.Machine.execLessonMove link tag payload s
  | .lessonClear link tag payload => Sys2Proof.Machine.execLessonClear link tag payload s
  | .setInterval link tag payload => Sys2Proof.Machine.execSetInterval link tag payload s
  | .stopInterval link tag payload => Sys2Proof.Machine.execStopInterval link tag payload s
  | .exportSlot link tag payload => Sys2Proof.Machine.execExportSlot link tag payload s
  | .cancelExport link tag payload => Sys2Proof.Machine.execCancelExport link tag payload s
  | .saveLesson link tag payload => Sys2Proof.Machine.execSaveLesson link tag payload s
  | .cancelSave link tag payload => Sys2Proof.Machine.execCancelSave link tag payload s
  | .recall link tag payload => Sys2Proof.Machine.execRecall link tag payload s
  | .recallLesson link tag payload => Sys2Proof.Machine.execRecallLesson link tag payload s
  | .deleteArchived link tag payload => Sys2Proof.Machine.execDeleteArchived link tag payload s
  | .remount link tag payload => Sys2Proof.Machine.execRemount link tag payload s
  | .readArchive link tag payload => Sys2Proof.Machine.execReadArchive link tag payload s
  | .readEntry link tag payload => Sys2Proof.Machine.execReadEntry link tag payload s
  | .readJobs link tag payload => Sys2Proof.Machine.execReadJobs link tag payload s
  | .setWatermark link tag payload => Sys2Proof.Machine.execSetWatermark link tag payload s
  | .setEventMask link tag payload => Sys2Proof.Machine.execSetEventMask link tag payload s
  | .readLink link tag payload => Sys2Proof.Machine.execReadLink link tag payload s
  | .partReset link tag payload => Sys2Proof.Machine.execPartReset link tag payload s
  | .readFaults link tag payload => Sys2Proof.Machine.execReadFaults link tag payload s
  | .clearFaults link tag payload => Sys2Proof.Machine.execClearFaults link tag payload s
  | .setFaultPolicy link tag payload => Sys2Proof.Machine.execSetFaultPolicy link tag payload s
  | .cameraFrameStart => Sys2Proof.Machine.execCameraFrameStart s
  | .cameraLineStart => Sys2Proof.Machine.execCameraLineStart s
  | .cameraLineEnd samples => Sys2Proof.Machine.execCameraLineEnd samples s
  | .lineGapTimerExpiry => Sys2Proof.Machine.execLineGapTimerExpiry s
  | .intakeWatchExpiry => Sys2Proof.Machine.execIntakeWatchExpiry s
  | .outputFrameStart => Sys2Proof.Machine.execOutputFrameStart s
  | .lateLine line => Sys2Proof.Machine.execLateLine line s
  | .ringReadUncorrectable buffer => Sys2Proof.Machine.execRingReadUncorrectable buffer s
  | .slotReadUncorrectable slot reader => Sys2Proof.Machine.execSlotReadUncorrectable slot reader s
  | .dramCorrected => Sys2Proof.Machine.execDramCorrected s
  | .copyComplete => Sys2Proof.Machine.execCopyComplete s
  | .copyFailed => Sys2Proof.Machine.execCopyFailed s
  | .armFoldChange level => Sys2Proof.Machine.execArmFoldChange level s
  | .lampSenseChange microvolts => Sys2Proof.Machine.execLampSenseChange microvolts s
  | .debounceRunExpiry input => Sys2Proof.Machine.execDebounceRunExpiry input s
  | .lessonClockTick => Sys2Proof.Machine.execLessonClockTick s
  | .intervalExpiry => Sys2Proof.Machine.execIntervalExpiry s
  | .exportStall link => Sys2Proof.Machine.execExportStall link s
  | .mountPageRead result => Sys2Proof.Machine.execMountPageRead result s
  | .blankCheckRead result => Sys2Proof.Machine.execBlankCheckRead result s
  | .pageProgramFinish verdict => Sys2Proof.Machine.execPageProgramFinish verdict s
  | .readJobPageRead result => Sys2Proof.Machine.execReadJobPageRead result s
  | .wordCheckRead result => Sys2Proof.Machine.execWordCheckRead result s
  | .wordProgramFinish verdict => Sys2Proof.Machine.execWordProgramFinish verdict s
  | .blockEraseFinish verdict => Sys2Proof.Machine.execBlockEraseFinish verdict s
  | .suspendFinish result => Sys2Proof.Machine.execSuspendFinish result s
  | .resumeFinish => Sys2Proof.Machine.execResumeFinish s
  | .flashResetFinish => Sys2Proof.Machine.execFlashResetFinish s
  | .commandDeadlineExpiry => Sys2Proof.Machine.execCommandDeadlineExpiry s
  | .flashResetExpiry => Sys2Proof.Machine.execFlashResetExpiry s
  | .malformedCommandFrame link moment => Sys2Proof.Machine.execMalformedCommandFrame link moment s

end Sys2Proof.Machine
end

