-- ==== Sys2Proof/Safety.lean ====
section
/-!
DEFINITION. What holds of the part in every state: the laws that the statements of the certificates name.
-/

namespace Sys2Proof.Machine

/-! ## Queues -/

/-- The bounds of one link's queues (R161, R163). -/
def LinkBounded (k : LinkState) : Prop := k.commands.length ≤ commandPlaces ∧ k.responses.length ≤ responsePlaces

/-- Every queue within its places: the links' (R161, R163), the job queue (R144), the copy queue (R98). -/
def QueuesBounded (s : State) : Prop :=
  LinkBounded s.links.panel ∧ LinkBounded s.links.bridge ∧ s.port.queue.length ≤ jobPlaces
    ∧ s.mover.queue.length ≤ moverPlaces

/-! ## Transactions -/

/-- The transaction that a row of a kind belongs to (R159): the one in progress on the link, of no kind yet or of this kind; with
none in progress, one whose chip-select falls now, its status byte formed from the state. -/
def InTransaction (kind : TransactionKind) (l : Link) (s : State) (x : Transaction) : Prop :=
  ((s.links.get l).transaction = none ∧ x = ⟨statusByte s l, none, none, [], false, false⟩)
    ∨ ((s.links.get l).transaction = some x ∧ (x.kind = none ∨ x.kind = some kind))

/-- The bytes returned after the status byte (R159, R171): the data, or what was sent before a soft reset cut the transaction,
and zeros for the rest of the bytes clocked. -/
def returned (x : Transaction) (data : List Byte) (clocked : Nat) : List Byte :=
  let sent := if x.cut = true then x.sent.take clocked else data
  sent ++ List.replicate (clocked - sent.length) 0#8

/-! ## The lamp -/

/-- LAMP_EN is high exactly while the commanded state is ON and no ACTIVE override forces the lamp off (R84). -/
def LampLaw (s : State) : Prop :=
  s.guard.lampEn = true ↔
    s.guard.commanded = true ∧ ∀ i, ¬ ((s.guard.overrides.get i).active = true
      ∧ (s.guard.overrides.get i).record.lampAction = .forceOff)

/-! ## Memory -/

/-- Every addressed memory stands in its canonical form: ring buffers, slots, flash. -/
def MemoryWf (s : State) : Prop :=
  (∀ b, Mem.Wf Config.dramBlank (s.ring.buffers.get b).content) ∧ (∀ n, Mem.Wf Config.dramBlank (s.slot n).content)
    ∧ Mem.Wf Config.flashBlank s.flash

/-! ## Profiles -/

/-- The ranges of R17, with the margin of R20. -/
def ProfileInRange (p : Profile) : Prop :=
  160 ≤ p.white ∧ p.white ≤ 255 ∧ 256 ≤ p.gmax ∧ p.gmax ≤ 1024 ∧ p.floor ≤ 128 ∧ 1 ≤ p.smooth ∧ p.smooth ≤ 8
    ∧ p.coring ≤ 31 ∧ p.sharpen ≤ 64 ∧ p.black ≤ 96 ∧ p.chroma ≤ 16 ∧ (p.ink = true → p.black + 64 ≤ p.white)

/-- Every stored profile and the latched one are in range (R17, R20, R23). -/
def ProfilesInRange (s : State) : Prop :=
  (∀ n, ProfileInRange (s.cond.profiles.get n)) ∧ ProfileInRange s.cond.latched

/-! ## Views -/

/-- A view whose window lies wholly inside the 4096 x 3072 frame (R40, R42). -/
def ViewInFrame (v : View) : Prop :=
  64 ≤ v.z ∧ v.z ≤ 512 ∧ windowW v.z / 2 ≤ v.cx ∧ v.cx ≤ 4096 - windowW v.z / 2
    ∧ windowH v.z / 2 ≤ v.cy ∧ v.cy ≤ 3072 - windowH v.z / 2

/-- A ramp record in the ranges of R40. -/
def RampInRange (r : Ramp) : Prop := 64 ≤ r.target ∧ r.target ≤ 512 ∧ 1 ≤ r.step ∧ r.step ≤ 64

/-- The views of an open staged set. -/
def StagedInFrame (g : StagedSet) : Prop := ViewInFrame g.views.pane0 ∧ ViewInFrame g.views.pane1

/-- Every view the View Unit can come to hold: its own, the snapshot's, the staged ones and the pending apply's. -/
def ViewsInFrame (s : State) : Prop :=
  (∀ q, ViewInFrame (s.view.views.get q)) ∧ (∀ q, RampInRange (s.view.ramps.get q))
    ∧ (∀ q, ViewInFrame (s.view.snapshot.panes.get q).view)
    ∧ (∀ l g, s.comp.staged.get l = some g → StagedInFrame g)
    ∧ (∀ p, s.comp.pendingApply = some p → StagedInFrame p.staged)

/-! ## The flash -/

/-- The place of a flash command lies in an extent (R120, R143). -/
def PlaceInExtents (a : Nat × Nat) : Prop := a.1 < 32625 ∧ a.2 < 32

/-- Everything that names a flash block names a block of an extent (R143): the command in flight, the suspended erase, the
reclaim work; with the counts from which the next places are formed. -/
def FlashInExtents (s : State) : Prop :=
  (∀ c a, s.port.command = some c → c.address = some a → PlaceInExtents a)
    ∧ (∀ e b, s.port.suspended = some (e, b) → b ≤ 144) ∧ (∀ e b, s.port.reclaim = some (e, b) → b ≤ 144)
    ∧ (∀ r, Job.read r ∈ s.port.queue → r.progress < dataPages) ∧ s.arch.scan.bad.length < 4

/-- At most one job is RUNNING, and at most one PROGRAM job has been started (R144). -/
def JobsLaw (p : FlashPort) : Prop :=
  p.queue.countP Job.isRunning ≤ 1
    ∧ p.queue.countP (fun j => j.isProgram && decide (j.state ≠ .queued)) ≤ 1

/-! ## What a command changes -/

/-- The pieces of the state, one for each field. -/
inductive Piece where
  | starting | intake | ring | cond | view | comp | guard | store | mover | arch | port | flash | links | faults | freeCount
  | pending
deriving DecidableEq, Repr

/-- A piece stands in `t` as it stood in `s`. -/
def Piece.same : Piece → State → State → Prop
  | .starting, s, t => t.starting = s.starting
  | .intake, s, t => t.intake = s.intake
  | .ring, s, t => t.ring = s.ring
  | .cond, s, t => t.cond = s.cond
  | .view, s, t => t.view = s.view
  | .comp, s, t => t.comp = s.comp
  | .guard, s, t => t.guard = s.guard
  | .store, s, t => t.store = s.store
  | .mover, s, t => t.mover = s.mover
  | .arch, s, t => t.arch = s.arch
  | .port, s, t => t.port = s.port
  | .flash, s, t => t.flash = s.flash
  | .links, s, t => t.links = s.links
  | .faults, s, t => t.faults = s.faults
  | .freeCount, s, t => t.freeCount = s.freeCount
  | .pending, s, t => t.pending = s.pending

/-- Every piece but the ones named stands as it stood. -/
def OnlyChanges (ps : List Piece) (s t : State) : Prop := ∀ p, p ∉ ps → p.same s t

/-- A link's response queue gains one response, and nothing else of either link changes (R163). -/
def Answers (l : Link) (tag code : Byte) (r : Result) (payload : List Byte) (s t : State) : Prop :=
  t.links = s.links.set l
    { s.links.get l with responses := (s.links.get l).responses ++ [.response tag code r payload] }

/-- A command answers a refusal: a response without payload, and nothing else changes (R163). -/
def RefusedWith (r : Result) (c : Instr) (l : Link) (tag code : Byte) (s : State) : Prop :=
  ∃ t, exec c s = .next t ∧ Answers l tag code r [] s t ∧ OnlyChanges [.links] s t

/-- The payload length of each command that has one length, by its code; none for the others. -/
def fixedLength (code : Nat) : Option Nat :=
  if code ∈ [0x21, 0x22, 0x40, 0x44, 0x45, 0x50, 0x53, 0x62, 0x63, 0x67, 0x6C, 0x70, 0x71, 0x73, 0x80, 0x90, 0xA1] then some 1
  else if code ∈ [0x23, 0x32, 0x51, 0x66, 0x68, 0x91] then some 2
  else if code = 0x6A then some 3
  else if code ∈ [0x30, 0x60, 0x61] then some 4
  else if code = 0x31 then some 5
  else if code = 0x74 then some 6
  else if code = 0x52 then some 8
  else if code = 0x93 then some 0
  else none

/-! ## The bytes a command may write -/

/-- A byte of a page of the flash. -/
def InPage (p : Nat × Nat) (a : Nat) : Prop := pageAddress p.1 p.2 ≤ a ∧ a < pageAddress p.1 p.2 + Config.flashPage

/-- A byte of a block of the flash. -/
def InBlock (b a : Nat) : Prop := pageAddress b 0 ≤ a ∧ a < pageAddress b 0 + blockBytes

/-- The flash pages in work: the page of the command in flight, and the page the current job programs (R132, R140). -/
def pagesInWork (s : State) : List (Nat × Nat) :=
  (s.port.command.bind fun c => c.address).toList ++
    (match currentJob s.port with
      | some (.program j) => (j.held.map fun h => programPlace h.1 j.progress).toList
      | some j => (wordPlace j).toList
      | none => [])

/-- The flash blocks in work: the block of an erase or a suspend in flight, of the suspended erase, and of reclaim (R149,
R150). -/
def blocksInWork (s : State) : List Nat :=
  (match s.port.command with
    | some c => if c.kind = .blockErase ∨ c.kind = .suspend then (c.address.map Prod.fst).toList else []
    | none => [])
  ++ (s.port.suspended.map fun p => blockOf p.1 p.2).toList ++ (s.port.reclaim.map fun p => blockOf p.1 p.2).toList

/-- A byte of the flash that the port's work in hand may change. -/
def InWork (s : State) (a : Nat) : Prop := (∃ p ∈ pagesInWork s, InPage p a) ∨ (∃ b ∈ blocksInWork s, InBlock b a)

/-- The runs (first byte, length) of the target buffer that a whole line writes (R4, R37): the luma row above the line, the
last row at line 3,071, and at an odd line a row of each chroma plane. -/
def lineStores (s : State) (samples : List Byte) : List (Nat × Nat) :=
  let y := s.intake.lineCount
  let used := samples.take 8192
  let half := min s.cond.chromaEven.length (lineChroma used).length
  (if y = 0 then [] else [(4096 * (y - 1), s.cond.y1Last.length)])
    ++ (if y = 3071 then [(4096 * y, (lineLuma used).length)] else [])
    ++ (if y % 2 = 1 then [(Config.cbBase + 2048 * (y / 2), half), (Config.crBase + 2048 * (y / 2), half)] else [])

/-! ## The policy of DRAM_FAILURE -/

/-- DRAM_FAILURE is never masked and is always FATAL (R173, R177). -/
def DramFailurePolicy (s : State) : Prop := s.faults.policy.get FaultKind.dramFailure.index = ⟨false, .fatal⟩

/-! ## What the port does next -/

/-- The turn of a job at a decision point: of two jobs the one of the lower turn is taken, the paused READ ahead of all others
(R146). A RUNNING job is not taken. -/
def Job.turn : Job → Nat
  | .read j => match j.state with
    | .paused => 0
    | .queued => 1
    | .running => 5
  | .withdraw _ running | .retire _ running => if running then 5 else 2
  | .program j => match j.state with
    | .paused => 3
    | .queued => 4
    | .running => 5

/-- The job that a decision point takes, with the jobs before and after it in the queue: the oldest of the lowest turn; while an
erase is suspended, a READ only (R146). -/
def TakenNext (p : FlashPort) (before : List Job) (j : Job) (after : List Job) : Prop :=
  p.queue = before ++ j :: after ∧ j.turn < 5 ∧ (∀ k ∈ before, j.turn < k.turn) ∧ (∀ k ∈ after, j.turn ≤ k.turn)
    ∧ (p.suspended ≠ none → j.turn ≤ 1)

/-- The flash command by which a job starts or goes on: the next data page of a READ (R148), the page of a word (R140), the next
check or program of a PROGRAM job that holds an extent (R131, R132, R147). -/
def Job.nextCommand : Job → Option FlashCommand
  | .read j => some ⟨.pageRead, some (145 * j.extent + (1 + j.progress / 32), j.progress % 32), 1⟩
  | .withdraw e _ => some ⟨.pageRead, some (145 * e, 2), 1⟩
  | .retire e _ => some ⟨.pageRead, some (145 * e, 3), 1⟩
  | .program j => j.held.map fun h =>
    if j.checked < 4 then ⟨.pageRead, some (145 * h.1, j.checked), 1⟩
    else ⟨.pageProgram, some (programPlace h.1 j.progress), 2⟩

/-- The part lets the port start work: not HALTED, not OFFLINE, MOUNTED, and no job RUNNING (R146, R151). -/
def MayStart (s : State) : Prop :=
  halted s = false ∧ s.port.offline = false ∧ s.arch.mount = .mounted ∧ ∀ j ∈ s.port.queue, j.state ≠ .running

/-- The extent that the archive names for reclaim: the lowest STALE one with erase progress, or with none such the lowest STALE
one (R141). -/
def NamedForReclaim (s : State) (e : Fin 225) : Prop :=
  (s.entry e).state = .stale
    ∧ ((0 < (s.entry e).progress ∧ ∀ f, f < e → (s.entry f).state = .stale → (s.entry f).progress = 0)
      ∨ ((∀ f, (s.entry f).state = .stale → (s.entry f).progress = 0) ∧ ∀ f, f < e → (s.entry f).state ≠ .stale))

/-- What a decision point with no flash command in flight leads to (R146), case by case. -/
inductive Decides : State → State → Prop where
  /-- The part does not let the port start work. -/
  | waits {s} : ¬ MayStart s → Decides s s
  /-- Cases 1 to 3 and the paused READ: the job taken goes on, or starts, with its next command. -/
  | takes {s before j after} : MayStart s → TakenNext s.port before j after → j.turn ≤ 3 →
      Decides s (s.withPort { s.port with
        queue := before ++ j.withState .running :: after, command := (j.withState .running).nextCommand })
  /-- Case 4: a PROGRAM job takes the next sequence number and the lowest FREE entry, and checks its page 0 (R130, R131). -/
  | starts {s before j after e} : MayStart s → TakenNext s.port before (.program j) after → j.state = .queued →
      (s.slot j.slot).state ≠ .damaged → s.arch.highest < 4294967295 →
      (s.entry e).state = .free → (∀ f, f < e → (s.entry f).state ≠ .free) →
      Decides s { s with
        arch := { s.arch with
          highest := s.arch.highest + 1
          entries := s.arch.entries.set e { s.entry e with
            state := .writing, header := some (jobHeader j (s.arch.highest + 1) (s.slot j.slot).info) } }
        port := { s.port with
          queue := before ++ .program { j with
            state := .running, held := some (e, s.arch.highest + 1), checked := 0, notBlank := false } :: after
          command := some ⟨.pageRead, some (145 * e, 0), 1⟩ } }
  /-- Case 4 for a job that ends as it starts: its slot is DAMAGED, or no sequence number or FREE entry is left (R130, R131,
  R134); without a FREE entry it takes no sequence number (log 52). The decision point goes on with the next job. -/
  | ends {s t before j after reason} : MayStart s → TakenNext s.port before (.program j) after → j.state = .queued →
      ((s.slot j.slot).state = .damaged ∧ reason = .damaged)
        ∨ ((s.slot j.slot).state ≠ .damaged ∧ reason = .archiveFull
          ∧ (4294967295 ≤ s.arch.highest ∨ ∀ e, (s.entry e).state ≠ .free)) →
      Decides (endSave j reason s) t → Decides s t
  /-- Case 5 with an erase suspended: a resume (R150). -/
  | resumes {s e b} : MayStart s → s.port.suspended = some (e, b) → (∀ j ∈ s.port.queue, 1 < j.turn) →
      Decides s (s.withPort { s.port with command := some ⟨.resume, some (145 * e + b, 0), 1⟩ })
  /-- Case 5: the next block of the extent named for reclaim is erased, its header block last (R141, R149). -/
  | erases {s e b} : MayStart s → s.port.queue = [] → s.port.suspended = none → NamedForReclaim s e →
      b = (if (s.entry e).progress < 144 then (s.entry e).progress + 1 else 0) →
      Decides s (s.withPort { s.port with
        reclaim := some (e, b), command := some ⟨.blockErase, some (145 * e + b, 0), 20⟩ })
  /-- Nothing to do: the port is IDLE. -/
  | idles {s} : MayStart s → s.port.queue = [] → s.port.suspended = none → (∀ e, (s.entry e).state ≠ .stale) → Decides s s

/-- A command in flight that is suspended at once: a block erase, for a QUEUED READ; while HALTED or MOUNTING it is not (R150,
log 34). -/
def IsSuspended (s : State) (c : FlashCommand) : Prop :=
  c.kind = .blockErase ∧ halted s = false ∧ s.arch.mount = .mounted ∧ ∃ j, Job.read j ∈ s.port.queue ∧ j.state = .queued

/-- `t` is what the port makes of `s` when a step's own work has left `s`: with a command in flight it keeps that, or suspends it;
with none it reads the mount's next page (R124), or is at a decision point. -/
def GoesOn (s t : State) : Prop :=
  (∀ c, s.port.command = some c →
    (IsSuspended s c → t = s.withPort { s.port with command := some ⟨.suspend, c.address, 1⟩ })
    ∧ (¬ IsSuspended s c → t = s))
  ∧ (s.port.command = none →
    (∀ e : Fin 225, s.arch.mount = .mounting → s.arch.scan.extent = e →
      t = s.withPort { s.port with command := some ⟨.pageRead, some (145 * e, s.arch.scan.bad.length), 1⟩ })
    ∧ (s.arch.mount ≠ .mounting → Decides s t))

/-- Two jobs of one kind on one slot. -/
def Job.sharesSlot : Job → Job → Bool
  | .program j, .program k => decide (j.slot = k.slot)
  | .read j, .read k => decide (j.slot = k.slot)
  | _, _ => false

/-- A job of the queue with the jobs before and after it, the first of its kind on its slot (R129 and R136 let a slot have one),
and the first RUNNING one if it runs (R144). -/
def JobAt (p : FlashPort) (before : List Job) (j : Job) (after : List Job) : Prop :=
  p.queue = before ++ j :: after ∧ ∀ k ∈ before, k.sharesSlot j = false ∧ (j.state = .running → k.state ≠ .running)

/-- The entry of an extent in another state, with the rest of the directory as it stands. -/
def entryIn (s : State) (e : Fin 225) (v : EntryState) : Archive :=
  { s.arch with entries := s.arch.entries.set e { s.entry e with state := v } }

/-- A slot record after entries have stopped being VALID: without a link to one of them, and HELD if it was SAVED (R108). -/
def withoutLinks (gone : List (Fin 225)) (v : Slot) : Slot :=
  if v.link.any (fun k => decide (k.extent ∈ gone)) then
    { v with link := none, state := if v.state = .saved then .held else v.state }
  else v

/-- A slot record as a job on it leaves it: one pin less, and HELD if it was SAVING (R134). -/
def leftSlot (v : Slot) : Slot := { v with state := if v.state = .saving then .held else v.state, pins := v.pins - 1 }

/-! ## A busy port -/

/-- The port is busy with a flash command that no READ interrupts: the end of HALTED starts nothing. -/
def PortBusy (s : State) : Prop := ∃ c, s.port.command = some c ∧ c.kind ≠ .blockErase

end Sys2Proof.Machine
end

