-- ==== Sys2Proof/WellFormed.lean ====
section
/-!
DEFINITION. The operands a command can carry. A command that is not well formed names something that cannot occur; exec
leaves the state as it is for it (log 3).
-/

namespace Sys2Proof

open Machine

/-- The payload of a frame that joined a command queue holds at most 60 bytes (R161). -/
def payloadFits (payload : List Byte) : Bool := decide (payload.length ≤ payloadLimit)

/-- Well-formed commands. -/
def Instr.wellFormed : Instr → Bool
  | .powerOnReset => true
  | .dramCheckEnd _ => true
  | .commandFrame _ _ _ payload _ => payloadFits payload
  | .unknownKind _ kind _ => !knownKind kind
  | .fetch _ _ => true
  | .bulk _ _ => true
  | .linkReset _ _ => true
  | .commandTaken _ => true
  | .unknownCommand _ _ code payload => !namesCommand code && payloadFits payload
  | .readIntake _ _ p | .writeProfile _ _ p | .readProfile _ _ p | .selectProfile _ _ p | .readTile _ _ p
  | .readConditioner _ _ p | .zoomTo _ _ p | .panBy _ _ p | .setRotation _ _ p | .readView _ _ p
  | .stageLayout _ _ p | .stagePane _ _ p | .discardStage _ _ p | .apply _ _ p | .freeze _ _ p | .unfreeze _ _ p
  | .readPresentation _ _ p | .setLamp _ _ p | .setLampSense _ _ p | .writeOverride _ _ p | .clearOverride _ _ p
  | .readGuard _ _ p | .setClock _ _ p | .capture _ _ p | .deleteSlot _ _ p | .readSlot _ _ p | .readStore _ _ p
  | .readLesson _ _ p | .lessonInsert _ _ p | .lessonRemove _ _ p | .lessonMove _ _ p | .lessonClear _ _ p
  | .setInterval _ _ p | .stopInterval _ _ p | .exportSlot _ _ p | .cancelExport _ _ p | .saveLesson _ _ p
  | .cancelSave _ _ p | .recall _ _ p | .recallLesson _ _ p | .deleteArchived _ _ p | .remount _ _ p
  | .readArchive _ _ p | .readEntry _ _ p | .readJobs _ _ p | .setWatermark _ _ p | .setEventMask _ _ p
  | .readLink _ _ p | .partReset _ _ p | .readFaults _ _ p | .clearFaults _ _ p | .setFaultPolicy _ _ p => payloadFits p
  | .cameraFrameStart => true
  | .cameraLineStart => true
  | .cameraLineEnd _ => true
  | .lineGapTimerExpiry => true
  | .intakeWatchExpiry => true
  | .outputFrameStart => true
  | .lateLine line => decide (line < 1080)
  | .ringReadUncorrectable _ => true
  | .slotReadUncorrectable _ _ => true
  | .dramCorrected => true
  | .copyComplete => true
  | .copyFailed => true
  | .armFoldChange _ => true
  | .lampSenseChange _ => true
  | .debounceRunExpiry _ => true
  | .lessonClockTick => true
  | .intervalExpiry => true
  | .exportStall _ => true
  | .mountPageRead _ => true
  | .blankCheckRead _ => true
  | .pageProgramFinish _ => true
  | .readJobPageRead _ => true
  | .wordCheckRead _ => true
  | .wordProgramFinish _ => true
  | .blockEraseFinish _ => true
  | .suspendFinish _ => true
  | .resumeFinish => true
  | .flashResetFinish => true
  | .commandDeadlineExpiry => true
  | .flashResetExpiry => true
  | .malformedCommandFrame _ moment => malformedMoment moment

end Sys2Proof
end

