-- ==== Sys2Proof/Certificates/Slice0/Obligations.lean ====
section
/-!
DEFINITION. The statements about the part, in the order of OBLIGATIONS.json.
-/

open Sys2Proof Sys2Proof.Machine

/-! ## The queue of waiting commands and the taking of frames -/

/-- One step executes the command at the front of the queue on the state with the queue's rest (95_what_each_step_holds.md).
That an empty queue leaves the state as it is, is the model's choice (log 1). -/
def Obligations.StepTakesTheFrontCommand : Prop :=
  ∀ s : State, (∀ c rest, s.pending = c :: rest → step s = exec c (s.withPending rest))
    ∧ (s.pending = [] → step s = .next s)

/-- No command touches the queue of waiting commands (95_what_each_step_holds.md); that power-on reset keeps it too is the
model's choice (log 43). -/
def Obligations.ExecKeepsThePendingQueue : Prop := ∀ c s t, exec c s = .next t → t.pending = s.pending

/-- COMMAND_TAKEN (R163): the oldest frame leaves the command queue, and the command that its code names (R183) is executed;
a code that names none is UNKNOWN_COMMAND. It happens only when the part is not STARTING, the queue is not empty and a
response place is free; that nothing happens otherwise is the model's choice (log 2).
A command that the link cannot take changes nothing (R163 says when a link takes one; that the waiting command leaves the
state as it is, is the model's choice, log 2).
A code outside the table of R183 is answered UNKNOWN_COMMAND, its payload ignored (R163); a code of the table is another
command's step (log 3). -/
def Obligations.CommandTakenRunsTheOldestFrame : Prop :=
  (∀ l s,
     (∀ f rest, (s.links.get l).commands = f :: rest → s.starting = false → (s.links.get l).responses.length < 16 →
       ∃ t, exec (.commandTaken l) s = .next t
         ∧ exec (instrOf l f) (s.setLink l { s.links.get l with commands := rest }) = .next t)
     ∧ ((s.links.get l).commands = [] ∨ s.starting = true ∨ 16 ≤ (s.links.get l).responses.length →
       exec (.commandTaken l) s = .next s))
  ∧ (∀ l f s, canTake s l = false → exec (instrOf l f) s = .next s)
  ∧ (∀ l tag (code : Byte) payload s,
       let known := code.toNat = 0x10 ∨ (0x20 ≤ code.toNat ∧ code.toNat ≤ 0x24) ∨ (0x30 ≤ code.toNat ∧ code.toNat ≤ 0x33)
         ∨ (0x40 ≤ code.toNat ∧ code.toNat ≤ 0x46) ∨ (0x50 ≤ code.toNat ∧ code.toNat ≤ 0x54)
         ∨ (0x60 ≤ code.toNat ∧ code.toNat ≤ 0x6D) ∨ (0x70 ≤ code.toNat ∧ code.toNat ≤ 0x77) ∨ code.toNat = 0x80
         ∨ (0x90 ≤ code.toNat ∧ code.toNat ≤ 0x93) ∨ (0xA0 ≤ code.toNat ∧ code.toNat ≤ 0xA2)
       (¬ known → canTake s l = true → RefusedWith .unknownCommand (.unknownCommand l tag code payload) l tag code s)
         ∧ (known → exec (.unknownCommand l tag code payload) s = .next s))

/-- A taken command whose answer is a refusal adds that answer and changes nothing else. STILL_MATCHING and ALREADY_PRESENT
are no refusals (R88, R136): they too change nothing, and their answers alone hold a payload. That the answer of
STILL_MATCHING holds the state and the level is read from the spec by inference (log 44). -/
def Obligations.RefusedCommandsChangeNothing : Prop :=
  ∀ l f s t r p, canTake s l = true → exec (instrOf l f) s = .next t →
    (t.links.get l).responses[(s.links.get l).responses.length]? = some (.response f.tag f.code r p) →
    r ≠ .ok → r ≠ .accepted → r ≠ .clamped →
    Answers l f.tag f.code r p s t ∧ OnlyChanges [.links] s t
      ∧ (r ≠ .stillMatching → r ≠ .alreadyPresent → p = [])

/-- A payload of the wrong length is refused BAD_LENGTH and changes nothing, for every command whose payload has one length.
READ_PROFILE, SELECT_PROFILE, READ_TILE, FREEZE, UNFREEZE and READ_SLOT state no length check: that they make it too is the
model's choice (log 7). The rules of ZOOM_TO, PAN_BY, SET_ROTATION, STAGE_LAYOUT, SET_LAMP and CLEAR_OVERRIDE (R49, R52, R53,
R62, R84, R88) give no order between BAD_LENGTH and BAD_ARGUMENT: that a payload with both faults is answered BAD_LENGTH is the
model's choice too (log 54). -/
def Obligations.WrongLengthsAreRefused : Prop :=
  ∀ l f s n, canTake s l = true → fixedLength f.code.toNat = some n → f.payload.length ≠ n →
    RefusedWith .badLength (instrOf l f) l f.tag f.code s

/-- No command of one link touches the other link's queued frames, watermark, mask, export, transaction or last answer, nor
takes a record out of its response queue; PART_RESET (code 0x93) clears both links (R168, R171). Of a transaction in progress
there is noted only that an event has been dropped (R166). -/
def Obligations.LinksAreIsolated : Prop :=
  ∀ l f s t, f.code ≠ 0x93#8 → exec (instrOf l f) s = .next t →
    let k := s.links.get (otherLink l)
    let k' := t.links.get (otherLink l)
    k'.commands = k.commands ∧ k'.watermark = k.watermark ∧ k'.mask = k.mask ∧ k'.exporting = k.exporting
      ∧ k'.miso = k.miso ∧ k.responses <+: k'.responses
      ∧ (k'.transaction = k.transaction ∨ k'.transaction = k.transaction.map fun x => { x with dropped := true })

/-! ## What holds in every state -/

/-- The queues stay within their places: 8 frames and 16 records on a link, 48 jobs, 4 copies (R161, R163, R144, R98). -/
def Obligations.QueuesStayBounded : Prop :=
  ∀ s t, QueuesBounded s → step s = .next t → QueuesBounded t

/-- LAMP_EN stays high exactly while the commanded state is ON and no ACTIVE override has the lamp action FORCE_OFF (R84). -/
def Obligations.LampEnFollowsItsLaw : Prop := ∀ s t, LampLaw s → step s = .next t → LampLaw t

/-- The pages in DRAM and the flash stay in canonical form. -/
def Obligations.MemoryStaysCanonical : Prop := ∀ s t, MemoryWf s → step s = .next t → MemoryWf t

/-- Every profile's fields stay in their ranges, with the margin between W and K while the ink curve is on (R17, R20). -/
def Obligations.ProfilesStayInRange : Prop := ∀ s t, ProfilesInRange s → step s = .next t → ProfilesInRange t

/-- Every view's window stays wholly inside the 4096 x 3072 frame, staged views and ramp fields in their ranges too (R40,
R42, R63). -/
def Obligations.ViewsStayInsideTheFrame : Prop := ∀ s t, ViewsInFrame s → step s = .next t → ViewsInFrame t

/-- The port addresses no flash block above 32,624 (R143). -/
def Obligations.FlashWorkStaysInExtents : Prop := ∀ s t, FlashInExtents s → step s = .next t → FlashInExtents t

/-- At most one started PROGRAM job and at most one RUNNING job of any kind are in the queue (R144). -/
def Obligations.OneJobRunsAtATime : Prop := ∀ s t, JobsLaw s.port → step s = .next t → JobsLaw t.port

/-- DRAM_FAILURE cannot be masked and its severity cannot be changed (R173, R177). -/
def Obligations.DramFailureKeepsItsPolicy : Prop := ∀ s t, DramFailurePolicy s → step s = .next t → DramFailurePolicy t

/-- Only POWER_ON_RESET enters STARTING, and only DRAM_CHECK_END ends it (R172). -/
def Obligations.StartingEndsWithTheDramCheck : Prop :=
  ∀ c s t, exec c s = .next t →
    (s.starting = false → c ≠ .powerOnReset → t.starting = false)
      ∧ (s.starting = true → (∀ passed, c ≠ .dramCheckEnd passed) → t.starting = true)

/-- A first-error record, once written, is unchanged, and a set flag stays set, until CLEAR_FAULTS or power-on reset (R174,
R179): every other command keeps them, PART_RESET among them. -/
def Obligations.FaultRecordsStandUntilCleared : Prop :=
  ∀ c s t, exec c s = .next t → c ≠ .powerOnReset → (∀ l tag p, c ≠ .clearFaults l tag p) →
    (∀ l f rest, c = .commandTaken l → (s.links.get l).commands = f :: rest → f.code ≠ 0xA1#8) →
    (∀ r, s.faults.error = some r → t.faults.error = some r) ∧ (∀ r, s.faults.fatal = some r → t.faults.fatal = some r)
      ∧ (s.faults.errorNext = true → t.faults.errorNext = true) ∧ (s.faults.fatalNext = true → t.faults.fatalNext = true)
      ∧ (∀ k, s.faults.notices.get k = true → t.faults.notices.get k = true)

/-- No byte of the lesson flash changes but in the page or block that the port's work in hand programs or erases (R143,
R157). What a cut or a failure leaves there is free (log 22). -/
def Obligations.FlashChangesOnlyWhereThePortWorks : Prop :=
  ∀ c s t a, exec c s = .next t → ¬ InWork s a →
    t.flash.read Config.flashBlank a = s.flash.read Config.flashBlank a

/-- No byte of a slot changes but in the target of a copy that completes and in the data page that a READ job has read
(R100, R137); no byte of a ring buffer changes but in the rows that a whole line writes into the target buffer (R4, R37).
Power-on reset is left out: DRAM content is undefined after it (R16, R119). -/
def Obligations.PagesChangeOnlyWhereWritten : Prop :=
  ∀ c s t, exec c s = .next t → c ≠ .powerOnReset →
    (∀ n a, (t.slot n).content.read Config.dramBlank a ≠ (s.slot n).content.read Config.dramBlank a →
      (c = .copyComplete ∧ ∃ r rest, s.mover.queue = r :: rest ∧ r.target = n)
        ∨ ∃ res j, c = .readJobPageRead res ∧ currentJob s.port = some (.read j) ∧ j.slot = n
            ∧ 4096 * j.progress ≤ a ∧ a < 4096 * j.progress + 4096)
    ∧ (∀ b a, (t.ring.buffers.get b).content.read Config.dramBlank a
          ≠ (s.ring.buffers.get b).content.read Config.dramBlank a →
        ∃ samples, c = .cameraLineEnd samples ∧ s.intake.target = some b
          ∧ ∃ p ∈ lineStores s samples, p.1 ≤ a ∧ a < p.1 + p.2)

/-! ## Values after power-on reset -/

/-- The values the spec gives right after power-on reset: Camera Intake (R9), Frame Ring (R16), Page Conditioner (R18, R23,
R26), View Unit (R55), Compositor (R59), Guard Unit (R85, R92), Page Store and Page Mover (R98, R115, R119), archive (R122),
Flash Port (R157), links (R172), Fault Recorder (R173, R179).
Right after power-on reset every law below holds. -/
def Obligations.ResetValuesMeetTheLaws : Prop :=
  (let s := State.reset;
   s.starting = true
     ∧ (s.intake.state = .stopped ∧ s.intake.frameCounter = 0 ∧ s.intake.truncated = 0 ∧ s.intake.lineCount = 0
       ∧ s.intake.target = none ∧ s.intake.loss = false ∧ s.intake.lossEnded = false ∧ s.intake.watch = none
       ∧ s.intake.lineGap = none)
     ∧ (s.ring.order = [] ∧ ∀ b, (s.ring.buffers.get b).state = .free ∧ (s.ring.buffers.get b).pins = 0
       ∧ (s.ring.buffers.get b).frameNumber = 0 ∧ (s.ring.buffers.get b).damaged = false)
     ∧ (s.cond.live = 0 ∧ s.cond.latchedNumber = 0 ∧ s.cond.latched = s.cond.profiles.get 0 ∧ s.cond.primed = false
       ∧ s.cond.sceneChanges = 0 ∧ (∀ i, s.cond.map.get i = 1020 ∧ s.cond.lastRaw.get i = 255 ∧ s.cond.gains.get i = 256)
       ∧ (∀ b, s.cond.bufferProfile.get b = 0)
       ∧ s.cond.profiles.data = [⟨232, 640, 48, 4, 4, 24, true, 40, 16⟩, ⟨240, 256, 48, 4, 0, 8, false, 0, 16⟩,
           ⟨224, 1024, 32, 2, 6, 32, true, 64, 8⟩, ⟨255, 256, 0, 8, 0, 0, false, 0, 16⟩])
     ∧ (∀ q, s.view.views.get q = ⟨64, 2048, 1536, .deg0⟩ ∧ (s.view.ramps.get q).running = false
       ∧ s.view.pending.get q = ⟨0, 0, none⟩)
     ∧ (s.comp.active = ⟨.single, ⟨.live, .blank⟩⟩ ∧ (∀ l, s.comp.staged.get l = none) ∧ s.comp.pendingApply = none
       ∧ (∀ q, s.comp.freeze.get q = .none ∧ s.comp.unfreeze.get q = none) ∧ s.comp.heldBuffer = none
       ∧ s.comp.frameCounter = 0 ∧ s.comp.underruns = 0)
     ∧ (s.guard.arm = ⟨false, false, none⟩ ∧ s.guard.lamp = ⟨false, false, none⟩ ∧ s.guard.threshold = 200
       ∧ s.guard.debounceTime = 10 ∧ s.guard.lossLevel = false ∧ s.guard.commanded = false ∧ s.guard.lampEn = false
       ∧ (∀ i, (s.guard.overrides.get i).active = false ∧ (s.guard.overrides.get i).count = 0)
       ∧ (s.guard.overrides.get 0).record = ⟨true, .lampSense, true, true, .none, .both, .forceOff⟩
       ∧ (s.guard.overrides.get 1).record = ⟨true, .armFold, true, false, .hold, .both, .leave⟩
       ∧ (s.guard.overrides.get 2).record = ⟨false, .none, false, false, .none, .both, .leave⟩)
     ∧ ((∀ n, (s.slot n).state = .empty ∧ (s.slot n).pins = 0 ∧ (s.slot n).info = none) ∧ s.store.lesson = []
       ∧ s.store.clock = 0 ∧ s.store.interval.running = false ∧ s.mover.queue = [])
     ∧ ((∀ e, (s.entry e).state = .free ∧ (s.entry e).header = none ∧ (s.entry e).failures = 0) ∧ s.arch.highest = 0
       ∧ s.arch.mount = .unmounted)
     ∧ (s.port.queue = [] ∧ s.port.command = none ∧ s.port.suspended = none ∧ s.port.reclaim = none
       ∧ s.port.resetCause = none ∧ s.port.offline = false)
     ∧ (∀ l, (s.links.get l).commands = [] ∧ (s.links.get l).responses = [] ∧ (s.links.get l).watermark = 1
       ∧ (s.links.get l).mask = 0xFFF#12 ∧ (s.links.get l).eventsLost = false ∧ (s.links.get l).exporting = none)
     ∧ (s.faults.error = none ∧ s.faults.fatal = none ∧ s.faults.errorNext = false ∧ s.faults.fatalNext = false
       ∧ (∀ k, s.faults.notices.get k = false ∧ (s.faults.policy.get k).masked = false)
       ∧ s.faults.policy.data.map (fun p => p.severity) = [.fatal, .error, .notice, .error, .notice, .notice, .notice, .error,
           .error, .error, .error, .error, .notice, .error, .error]
       ∧ s.faults.steering = ⟨.none, .both, .both⟩))
  ∧ (QueuesBounded State.reset ∧ LampLaw State.reset ∧ MemoryWf State.reset ∧ ProfilesInRange State.reset
       ∧ ViewsInFrame State.reset ∧ FlashInExtents State.reset ∧ JobsLaw State.reset.port ∧ DramFailurePolicy State.reset)

/-! ## The formulas -/

/-- The normalised luma (R33).
The ink curve (R35), and with the margin of R20 its result is a level.
The chroma factor (R36): the output is 128 plus the rounded share of the difference, it needs no limit for any factor up
to 16, 16 keeps the sample, and 0 gives grey.
The gain of a tile (R31): 256 in the dark, and otherwise the rounded 256 W divided by the paper level, clamped to 256 to Gmax.
A frame start latches the live profile and forms the table from it and the map as it stands, which with an unprimed map gives
256 everywhere; the table holds until the next frame start: lines, truncations and profile commands keep it, and of the other
commands only the resets act on the Conditioner.
The gain of a pixel (R32): the weighted mean of the four tile gains around it, between the smallest and the largest of them. -/
def Obligations.PixelFormulasFollowTheirRules : Prop :=
  (∀ y g, y ≤ 255 →
     normalise y g = (if 255 < (y * g + 128) / 256 then 255 else (y * g + 128) / 256)
       ∧ normalise y g ≤ 255 ∧ normalise y 256 = y ∧ ∀ g', g ≤ g' → normalise y g ≤ normalise y g')
  ∧ (∀ (p : Profile) (y2 : Nat), y2 ≤ 255 →
       (p.ink = false → inkCurve p y2 = y2)
       ∧ (p.ink = true → p.black + 64 ≤ p.white →
         (y2 ≤ p.black → inkCurve p y2 = 0) ∧ (p.white ≤ y2 → inkCurve p y2 = 255)
         ∧ (p.black < y2 → y2 < p.white →
           inkCurve p y2 = ((y2 - p.black) * 255 + (p.white - p.black) / 2) / (p.white - p.black)))
       ∧ ((p.ink = true → p.black + 64 ≤ p.white) → inkCurve p y2 ≤ 255))
  ∧ (∀ (p : Profile) (c : Nat), c ≤ 255 → p.chroma ≤ 16 →
       (chromaLevel p c : Int) = 128 + (((c : Int) - 128) * p.chroma + 8) / 16 ∧ chromaLevel p c ≤ 255
         ∧ (p.chroma = 16 → chromaLevel p c = c) ∧ (p.chroma = 0 → chromaLevel p c = 128))
  ∧ (∀ (p : Profile) (paper : Nat), 60 ≤ paper → 256 ≤ p.gmax →
       let wanted := (1024 * p.white + paper / 2) / paper;
       (paper < 4 * p.floor → tileGain p paper = 256)
       ∧ (4 * p.floor ≤ paper → tileGain p paper = if wanted < 256 then 256 else if p.gmax < wanted then p.gmax else wanted)
       ∧ 256 ≤ tileGain p paper ∧ tileGain p paper ≤ p.gmax
       ∧ (paper = 1020 → p.white ≤ 255 → tileGain p paper = 256))
  ∧ (∀ s t, s.intake.state ≠ .stopped → exec .cameraFrameStart s = .next t →
       t.cond.latched = s.cond.profiles.get s.cond.live
         ∧ (∀ i, t.cond.gains.get i = tileGain t.cond.latched (s.cond.map.get i))
         ∧ (t.cond.latched.white ≤ 255 → 256 ≤ t.cond.latched.gmax → (∀ i, s.cond.map.get i = 1020) →
           ∀ i, t.cond.gains.get i = 256))
  ∧ (∀ c s t, c = .lineGapTimerExpiry ∨ (∃ samples, c = .cameraLineEnd samples)
         ∨ (∃ l tag payload, c = .writeProfile l tag payload ∨ c = .selectProfile l tag payload) →
       exec c s = .next t → t.cond.gains = s.cond.gains)
  ∧ (∀ (gains : Table Nat 768) (x y : Nat), x < 4096 → y < 3072 →
       let gain (i j : Nat) : Nat := gains.data.getD (32 * j + i) 0
       let tile (v last : Nat) : Nat := if v < 64 then 0 else min ((v - 64) / 128) last
       let weight (v last : Nat) : Nat := if v < 64 then 0 else min (v - (128 * tile v last + 64)) 128
       let i := tile x 30
       let j := tile y 22
       let ax := weight x 30
       let ay := weight y 22;
       pixelGain gains x y = ((128 - ax) * (128 - ay) * gain i j + ax * (128 - ay) * gain (i + 1) j
           + (128 - ax) * ay * gain i (j + 1) + ax * ay * gain (i + 1) (j + 1) + 8192) / 16384
         ∧ ∀ lo hi, (∀ a b, a = i ∨ a = i + 1 → b = j ∨ b = j + 1 → lo ≤ gain a b ∧ gain a b ≤ hi) →
           lo ≤ pixelGain gains x y ∧ pixelGain gains x y ≤ hi)

/-- The window of a zoom factor (R41): for every Z from 64 to 512 the width is the largest multiple of 8 that Z times it
keeps within 262,144, from 512 to 4,096, the height is three quarters of it and a multiple of 6, and a larger Z gives no
wider window.
A view whose window lies in the frame reads only samples of the page: every luma point of the window lies in the
4096 x 3072 plane, every point of its chroma window in the 2048 x 1536 planes, and rotation 180 mirrors both (R42, R43,
R44). -/
def Obligations.WindowSizeAndPointsStayInThePage : Prop :=
  (∀ z, 64 ≤ z → z ≤ 512 →
     windowW z % 8 = 0 ∧ z * windowW z ≤ 262144 ∧ 262144 < z * (windowW z + 8)
       ∧ 512 ≤ windowW z ∧ windowW z ≤ 4096 ∧ 4 * windowH z = 3 * windowW z ∧ windowH z % 6 = 0
       ∧ 384 ≤ windowH z ∧ windowH z ≤ 3072 ∧ ∀ z', z ≤ z' → windowW z' ≤ windowW z)
  ∧ ([64, 96, 128, 160, 192, 200, 256, 512].map (fun z => (windowW z, windowH z))
      = [(4096, 3072), (2728, 2046), (2048, 1536), (1632, 1224), (1360, 1020), (1304, 978), (1024, 768), (512, 384)])
  ∧ (∀ v : View, ViewInFrame v → ∀ r a b,
       let k := windowOf v;
       let c := chromaWindow k;
       (c.w = k.w / 2 ∧ c.h = k.h / 2 ∧ c.x0 = k.x0 / 2 ∧ c.y0 = k.y0 / 2 ∧ windowOf { v with rotation := r } = k)
       ∧ (a < k.w → b < k.h →
         windowPoint k .deg0 a b = (k.x0 + a, k.y0 + b)
           ∧ windowPoint k .deg180 a b = (k.x0 + k.w - 1 - a, k.y0 + k.h - 1 - b)
           ∧ (windowPoint k r a b).1 < 4096 ∧ (windowPoint k r a b).2 < 3072
           ∧ windowPoint k .deg180 a b = windowPoint k .deg0 (k.w - 1 - a) (k.h - 1 - b))
       ∧ (a < c.w → b < c.h →
         windowPoint c .deg0 a b = (c.x0 + a, c.y0 + b)
           ∧ windowPoint c .deg180 a b = (c.x0 + k.w / 2 - 1 - a, c.y0 + k.h / 2 - 1 - b)
           ∧ (windowPoint c r a b).1 < 2048 ∧ (windowPoint c r a b).2 < 1536
           ∧ windowPoint c .deg180 a b = windowPoint c .deg0 (c.w - 1 - a) (c.h - 1 - b)))

/-- The scaler (R46, R47), for a window of at least one sample each way: at every place of the target the position by the half
step and the clamp, the source column and row with their fractions, and the output, the rounded weighted sum of four samples,
a neighbour beyond the edge repeating the edge. It lies between the smallest and the largest sample of the window.
The sample of an output pixel (R45, R58, R75): black in the bars and in a pane without a page, and otherwise the scaler's output
from the pane's page through the view of its output frame. A line replaced repeats the one before, line 0 is then black (R77),
and before the first output frame since a reset all is black (R60). A pane held by an override
sends its held buffer in the same way (R74). Stated for a page that is not damaged (R15, R107). That
the samples are formed from the records settled at the frame start is read from the spec by inference (log 42), and what a byte
that nothing has written reads as is the model's choice (log 20). -/
def Obligations.ScalerAndVideoOutputSendThePage : Prop :=
  (∀ (sample : Nat → Nat → Nat) (w h tw th u v lo hi : Nat), 0 < w → 0 < h →
     (∀ a b, a < w → b < h → lo ≤ sample a b ∧ sample a b ≤ hi) →
     lo ≤ scaled sample w h tw th u v ∧ scaled sample w h tw th u v ≤ hi)
  ∧ (∀ (sample : Nat → Nat → Nat) (w h tw th u v : Nat), 0 < w → 0 < h → u < tw → v < th →
       let position (size target i : Nat) : Nat :=
         let step := size * 65536 / target
         min (i * step + step / 2 - 32768) ((size - 1) * 65536)
       let px := position w tw u
       let py := position h th v
       let xi := px / 65536
       let yi := py / 65536
       let fx := px % 65536 / 256
       let fy := py % 65536 / 256
       let right := if xi + 1 = w then xi else xi + 1
       let below := if yi + 1 = h then yi else yi + 1;
       xi < w ∧ yi < h ∧ fx ≤ 255 ∧ fy ≤ 255
         ∧ scaled sample w h tw th u v = (sample xi yi * (256 - fx) * (256 - fy) + sample right yi * fx * (256 - fy)
             + sample xi below * (256 - fx) * fy + sample right below * fx * fy + 32768) / 65536)
  ∧ (∀ s x y, x < 1920 → y < 1080 →
       let sent := videoSample s x y
       let black : Sample := ⟨16, 128, 128⟩
       let single := s.comp.active.layout = .single;
       (s.comp.scanning = false → sent = black)
       ∧ (s.comp.scanning = true → y ∈ s.comp.lateLines →
         (y = 0 → sent = black) ∧ (0 < y → sent = videoSample s x (y - 1)))
       ∧ (s.comp.scanning = true → y ∉ s.comp.lateLines →
         ((single ∧ (x < 240 ∨ 1680 ≤ x)) ∨ (¬ single ∧ (y < 180 ∨ 900 ≤ y)) → sent = black)
         ∧ (∀ q x0 y0 w h, (single ∧ q = .zero ∧ x0 = 240 ∧ y0 = 0 ∧ w = 1440 ∧ h = 1080)
             ∨ (¬ single ∧ q = .zero ∧ x0 = 0 ∧ y0 = 180 ∧ w = 960 ∧ h = 720)
             ∨ (¬ single ∧ q = .one ∧ x0 = 960 ∧ y0 = 180 ∧ w = 960 ∧ h = 720) →
           x0 ≤ x → x < x0 + w → y0 ≤ y → y < y0 + h →
           let d := s.comp.display.get q;
           (d.page = .none → sent = black)
           ∧ (∀ content, (∃ b, d.page = .ring b ∧ (s.ring.buffers.get b).damaged = false
                 ∧ content = (s.ring.buffers.get b).content)
               ∨ (∃ n, d.page = .slot n ∧ (s.slot n).state ≠ .damaged ∧ content = (s.slot n).content) →
             let v := (s.view.snapshot.panes.get q).view
             let k := windowOf v
             let level (base width : Nat) (p : Nat × Nat) : Nat :=
               (Mem.read Config.dramBlank content (base + width * p.2 + p.1)).toNat
             let luma (a b : Nat) : Nat := level 0 4096 (windowPoint k v.rotation a b)
             let chroma (base a b : Nat) : Nat := level base 2048 (windowPoint (chromaWindow k) v.rotation a b)
             let scaledChroma (base : Nat) : Nat :=
               scaled (chroma base) (k.w / 2) (k.h / 2) (w / 2) (h / 2) ((x - x0) / 2) ((y - y0) / 2);
             sent = ⟨scaled luma k.w k.h w h (x - x0) (y - y0), scaledChroma 12582912, scaledChroma 15728640⟩))))

/-! ## Raising a fault -/

/-- What raising a fault does, by the kind's policy (R174), with the FAULT event of R175 for each change. -/
def Obligations.RaisingFollowsThePolicy : Prop :=
  ∀ kind origin detail log s,
    let p := s.faults.policy.get kind.index
    let r : FaultRecord :=
      { kind, origin, detail, log, frameNumber := s.comp.frameCounter, clock := s.store.clock }
    let event (cls : FaultClass) (marker : FaultMarker) : Event :=
      .fault cls kind origin detail s.comp.frameCounter marker
    let t := raise kind origin detail log s;
    (p.masked = true → t = s)
    ∧ (p.masked = false → p.severity = .notice →
      (s.faults.notices.get kind.index = true → t = s)
      ∧ (s.faults.notices.get kind.index = false →
        t.faults = { s.faults with notices := s.faults.notices.set kind.index true }
          ∧ t.links = (postSteered (event .notice .notice) s.faults.steering.notice s).links))
    ∧ (p.masked = false → p.severity = .error →
      (s.faults.error = none → t.faults = { s.faults with error := some r }
        ∧ t.links = (postSteered (event .error .first) s.faults.steering.error s).links)
      ∧ (s.faults.error ≠ none → s.faults.errorNext = false → t.faults = { s.faults with errorNext := true }
        ∧ t.links = (postSteered (event .error .next) s.faults.steering.error s).links)
      ∧ (s.faults.error ≠ none → s.faults.errorNext = true → t = s))
    ∧ (p.masked = false → p.severity = .fatal →
      (s.faults.fatal = none → t.faults = { s.faults with fatal := some r } ∧ halted t = true
        ∧ t.links = (postSteered (event .fatal .first) s.faults.steering.fatal s).links)
      ∧ (s.faults.fatal ≠ none → s.faults.fatalNext = false → t.faults = { s.faults with fatalNext := true }
        ∧ t.links = (postSteered (event .fatal .next) s.faults.steering.fatal s).links)
      ∧ (s.faults.fatal ≠ none → s.faults.fatalNext = true → t = s))
    ∧ OnlyChanges [.faults, .links] s t

/-- How an event reaches a link (R165, R166): with a place free it joins the response queue, and otherwise it is dropped, the
events-lost flag is set, and a transaction in progress on the link is marked; the issuing link gets it whatever its mask, the
other link by its mask. An event that may have an issuer goes by that rule with one and by the masks without; the events that
only their issuer gets, and MOUNT_DONE to both links, go whatever the masks hold. Bits 0 to 11 of a mask stand for the twelve
subscribable kinds in the order of R182; the other kinds have none. A FAULT event goes to each link that its
class is steered to, whatever the masks hold (R175). -/
def Obligations.EventsReachTheirLinks : Prop :=
  ∀ e issuer s,
    let place (k : LinkState) : LinkState :=
      if k.responses.length < 16 then { k with responses := k.responses ++ [.event e] } else
        { k with eventsLost := true, transaction := k.transaction.map fun x => { x with dropped := true } }
    let bit : Option Nat := match e with
      | .sceneChange .. => some 0
      | .rampDone .. => some 1
      | .presentationChanged .. => some 2
      | .overrideOn .. => some 3
      | .overrideOff .. => some 4
      | .captureDone .. => some 5
      | .captureSkipped .. => some 6
      | .intervalStopped .. => some 7
      | .saveDone .. => some 8
      | .saveFailed .. => some 9
      | .recallDone .. => some 10
      | .recallFailed .. => some 11
      | .applied .. | .superseded .. | .frozen .. | .exportDone .. | .exportStalled .. | .mountDone .. | .resetNotice ..
      | .fault .. => none
    let byMask (k : LinkState) : LinkState := if bit.any (fun i => k.mask.getLsbD i) then place k else k;
    (let t := postIssued e issuer s;
      (t.links.get issuer) = place (s.links.get issuer)
        ∧ (t.links.get (otherLink issuer)) = byMask (s.links.get (otherLink issuer)) ∧ OnlyChanges [.links] s t)
    ∧ (let t := postByMask e s;
      (∀ l, t.links.get l = byMask (s.links.get l)) ∧ OnlyChanges [.links] s t)
    ∧ postFor e (some issuer) s = postIssued e issuer s ∧ postFor e none s = postByMask e s
    ∧ (let t := postTo e issuer s;
      t.links = s.links.set issuer (place (s.links.get issuer)) ∧ OnlyChanges [.links] s t)
    ∧ (let t := postSubscribed e issuer s;
      t.links = s.links.set issuer (byMask (s.links.get issuer)) ∧ OnlyChanges [.links] s t)
    ∧ (let t := postBoth e s;
      (∀ l, t.links.get l = place (s.links.get l)) ∧ OnlyChanges [.links] s t)
    ∧ (∀ v : Steering, let t := postSteered e v s;
      (∀ l, t.links.get l = if v = .both ∨ (v = .panel ∧ l = .panel) ∨ (v = .bridge ∧ l = .bridge)
        then place (s.links.get l) else s.links.get l) ∧ OnlyChanges [.links] s t)

/-! ## Resets -/

/-- POWER_ON_RESET (R172): from any state the part comes to its power-on values. Kept are the flash but for what the reset
cut (R157), and, as the model's choices (logs 19, 21, 40, 43), the levels on the pins, the waiting commands and the count of
free values. A word page that was being programmed does not hold its word, and an extent whose commit word was cut reads as
STALE, unless it is retired (R121, R125, R184).
DRAM_CHECK_END (R172, R9, R157, R124): STARTING ends, the Intake enters BETWEEN with the watch timer loaded with 200 ms,
the port issues the power-on flash reset with its deadline of 5 ms and the archive is MOUNTING. A failed check records
DRAM_FAILURE and the part is HALTED. Outside STARTING there is no such step (log 3). -/
def Obligations.PowerOnResetAndDramCheckStartThePart : Prop :=
  (∀ s, ∃ t, exec .powerOnReset s = .next t
     ∧ OnlyChanges [.guard, .flash, .freeCount, .pending] State.reset t
     ∧ t.guard = { State.reset.guard with armPin := s.guard.armPin, lampPin := s.guard.lampPin }
     ∧ t.pending = s.pending
     ∧ (∀ a, ¬ InWork s a → t.flash.read Config.flashBlank a = s.flash.read Config.flashBlank a)
     ∧ (s.port.command = none → s.port.suspended = none → t.flash = s.flash ∧ t.freeCount = s.freeCount)
     ∧ (∀ c (e : Fin 225) page, s.port.command = some c → c.kind = .pageProgram → c.address = some (145 * e.val, page) →
       s.port.suspended = none →
       (page = 1 → ∀ h, readHeader s.flash (145 * e) = some h → pageHead t.flash (145 * e) 1 8 ≠ commitWord h.seq
         ∧ (pageBlank s.flash (145 * e) 3 = true →
           (stateFound (pagesFound t.flash (145 * e) fun _ => false)).1 = .stale))
       ∧ (page = 2 → pageHead t.flash (145 * e) 2 4 ≠ withdrawMarker)
       ∧ (page = 3 → pageHead t.flash (145 * e) 3 4 ≠ retireMarker)))
  ∧ (∀ passed s,
       (s.starting = true →
         ∃ t, exec (.dramCheckEnd passed) s = .next t ∧ t.starting = false
           ∧ t.intake = { s.intake with state := .between, lineCount := 0, target := none, watch := some 200,
                                        lineGap := none, lineOpen := false }
           ∧ t.port = { s.port with command := some ⟨.reset, none, 5⟩, resetCause := some .powerOn }
           ∧ t.arch = { s.arch with mount := .mounting, cause := .powerOn, scan := ⟨0, [], false⟩ }
           ∧ (passed = true → t.faults = s.faults ∧ t.links = s.links)
           ∧ (passed = false → DramFailurePolicy s → s.faults.fatal = none → halted t = true ∧ t.faults = { s.faults with
               fatal := some ⟨.dramFailure, .internal, .none, none, s.comp.frameCounter, s.store.clock⟩ })
           ∧ t.guard.arm.raw = s.guard.armPin
           ∧ OnlyChanges [.starting, .intake, .port, .arch, .faults, .links, .guard, .freeCount] s t)
       ∧ (s.starting = false → exec (.dramCheckEnd passed) s = .next s))

/-- LINK_RESET (R170): at the end of its transaction the link's queues are emptied, its watermark, mask and flag return to their
reset values, its export ends with the slot's pin released, its staged set closes and its own pending apply goes. The other
link, and everything else, stands. The part returns the status byte and zeros (R159). Until the end of the transaction only
the transaction itself is noted. The model's choices: the reset takes effect at the end of the transaction, also when a soft
reset has come between (log 4), and the status byte of a transaction that a soft reset cuts stays as formed (log 60). -/
def Obligations.LinkResetClearsOneLink : Prop :=
  ∀ l n s x, InTransaction .linkReset l s x →
    (∃ t, exec (.linkReset l (.clocks n)) s = .next t ∧ OnlyChanges [.links] s t
      ∧ t.links = s.links.set l { s.links.get l with
          transaction := some { x with kind := some .linkReset, sent := returned x [] n } })
    ∧ ∃ t, exec (.linkReset l (.ends n)) s = .next t
      ∧ t.links = s.links.set l
          { commands := [], responses := [], watermark := 1, mask := 0xFFF#12, eventsLost := false, exporting := none,
            transaction := none, miso := x.status :: returned x [] n }
      ∧ t.comp = { s.comp with staged := s.comp.staged.set l none, pendingApply := t.comp.pendingApply }
      ∧ (∀ p, s.comp.pendingApply = some p → t.comp.pendingApply = if p.link = l then none else some p)
      ∧ (s.comp.pendingApply = none → t.comp.pendingApply = none)
      ∧ (∀ k, (s.links.get l).exporting = some k → t.store = { s.store with
          slots := s.store.slots.set k.slot { s.slot k.slot with pins := (s.slot k.slot).pins - 1 } })
      ∧ ((s.links.get l).exporting = none → t.store = s.store)
      ∧ OnlyChanges [.links, .comp, .store] s t

/-- PART_RESET (R171): both links are cleared, RESET_NOTICE is the other link's first record and the issuer's queue holds no
response; Intake, ring, Conditioner, View Unit, Compositor, Page Store, Page Mover and archive come to their soft reset
values (R9, R16, R18, R23, R26, R55, R59, R119, R122, R157). A slot that was FILLING becomes EMPTY without fields and leaves
the lesson list, a kept slot keeps its fields and its link's sequence number (R108; that READ_SLOT shows the link's extent as
before until the mount ends is the model's choice, log 56); every reader count and erase progress of the directory is 0, and
its failure counts stand (R122, R141). The flash changes only where the reset cut the port's work (R157), and a commit word that
was being programmed is not there: its extent reads as STALE, unless it is retired (R125, R134). The lesson clock
and every slot's content bytes stand, and no
fault record, next-error flag or notice flag is lost (R179); where no override becomes ACTIVE in the re-evaluation (R93), the
Fault Recorder is unchanged. A transaction in progress on a link is cut, and completes with zeros (R171). A payload is refused
BAD_LENGTH. -/
def Obligations.PartResetCompletes : Prop :=
  ∀ l tag payload s, canTake s l = true →
    (payload ≠ [] → RefusedWith .badLength (.partReset l tag payload) l tag 0x93#8 s)
    ∧ (payload = [] → ∃ t, exec (.partReset l tag []) s = .next t
      ∧ t.intake = { State.reset.intake with state := .between, watch := some 200 }
      ∧ t.ring.order = [] ∧ (∀ b, t.ring.buffers.get b
          = { s.ring.buffers.get b with state := .free, frameNumber := 0, pins := 0, damaged := false })
      ∧ (t.cond.profiles = s.cond.profiles ∧ t.cond.live = s.cond.live ∧ t.cond.latched = s.cond.profiles.get s.cond.live
        ∧ t.cond.latchedNumber = s.cond.live ∧ t.cond.primed = false ∧ t.cond.sceneChanges = s.cond.sceneChanges
        ∧ (∀ i, t.cond.map.get i = 1020 ∧ t.cond.gains.get i = 256))
      ∧ t.view = State.reset.view ∧ t.comp = State.reset.comp ∧ t.mover = State.reset.mover
      ∧ (t.store.clock = s.store.clock ∧ t.store.interval = State.reset.store.interval
        ∧ (∀ n, (t.slot n).pins = 0 ∧ (t.slot n).content = (s.slot n).content)
        ∧ (∀ n, (t.slot n).state = (match (s.slot n).state with
            | .filling => .empty
            | .saving => .held
            | v => v))
        ∧ (let gone (n : Fin 24) : Prop := (s.slot n).state = .empty ∨ (s.slot n).state = .filling;
          (∀ n, (gone n → (t.slot n).info = none ∧ (t.slot n).link = none)
            ∧ (¬ gone n → (t.slot n).info = (s.slot n).info ∧ (t.slot n).link = (s.slot n).link))
          ∧ t.store.lesson = s.store.lesson.filter fun n =>
              decide ((s.slot n).state ≠ .empty ∧ (s.slot n).state ≠ .filling)))
      ∧ (∀ e, t.entry e = { s.entry e with readers := 0, progress := 0 })
      ∧ (∀ a, ¬ InWork s a → t.flash.read Config.flashBlank a = s.flash.read Config.flashBlank a)
      ∧ (∀ c (e : Fin 225) h, s.port.command = some c → c.kind = .pageProgram → c.address = some (145 * e.val, 1) →
        s.port.suspended = none → readHeader s.flash (145 * e) = some h →
        pageHead t.flash (145 * e) 1 8 ≠ commitWord h.seq
          ∧ (pageBlank s.flash (145 * e) 3 = true →
            (stateFound (pagesFound t.flash (145 * e) fun _ => false)).1 = .stale))
      ∧ (t.port.queue = [] ∧ t.port.suspended = none ∧ t.port.reclaim = none ∧ t.port.command = some ⟨.reset, none, 5⟩
        ∧ t.port.resetCause = some .softReset ∧ t.arch.mount = .mounting ∧ t.arch.cause = .softReset
        ∧ t.arch.highest = s.arch.highest)
      ∧ (∀ m, (t.links.get m).commands = [] ∧ (t.links.get m).watermark = 1 ∧ (t.links.get m).mask = 0xFFF#12
        ∧ (t.links.get m).exporting = none ∧ (t.links.get m).eventsLost = false
        ∧ (t.links.get m).transaction = (s.links.get m).transaction.map (fun x => { x with cut := true })
        ∧ (t.links.get m).miso = (s.links.get m).miso
        ∧ ∀ g c r p, Record.response g c r p ∉ (t.links.get m).responses)
      ∧ (t.links.get (otherLink l)).responses.head? = some (.event (.resetNotice l))
      ∧ (t.guard.commanded = s.guard.commanded ∧ t.guard.threshold = s.guard.threshold
        ∧ t.guard.debounceTime = s.guard.debounceTime ∧ t.guard.arm = s.guard.arm ∧ t.guard.lamp = s.guard.lamp
        ∧ t.guard.lossLevel = false
        ∧ ∀ i, (t.guard.overrides.get i).record = (s.guard.overrides.get i).record
          ∧ ((t.guard.overrides.get i).active = true ↔ (s.guard.overrides.get i).record.enabled = true
            ∧ sourceMatches { s.guard with lossLevel := false } (s.guard.overrides.get i).record = true))
      ∧ (t.faults.policy = s.faults.policy ∧ t.faults.steering = s.faults.steering)
      ∧ ((∀ r, s.faults.error = some r → t.faults.error = some r) ∧ (∀ r, s.faults.fatal = some r → t.faults.fatal = some r)
        ∧ (s.faults.errorNext = true → t.faults.errorNext = true) ∧ (s.faults.fatalNext = true → t.faults.fatalNext = true)
        ∧ (∀ k, s.faults.notices.get k = true → t.faults.notices.get k = true))
      ∧ ((∀ i, (t.guard.overrides.get i).active = false) → t.faults = s.faults)
      ∧ t.starting = s.starting ∧ t.pending = s.pending)

/-! ## Link transactions -/

/-- COMMAND_FRAME (R161): a complete frame joins the tail of a command queue that holds fewer than 8; otherwise it is dropped
and LINK_OVERRUN is raised with its header log. The part returns the status byte and zeros (R159).
MALFORMED_COMMAND_FRAME (R162) and UNKNOWN_KIND (R159): nothing joins the command queue, and MALFORMED_FRAME is raised
with the link as origin; its header log holds the fields received before the frame was discarded, or none of them for an
unknown kind, raised at the kind byte. A frame in progress at a soft reset is discarded without a fault (R171).
The fall of chip-select forms the status byte, for a transaction of any kind (R159); one without a whole kind byte has no
effect.
The bytes of a transaction and their row (R180): the kind byte, then for a COMMAND the tag, the code, the payload length
and the payload.
The model's choices: a transaction is taken in the moments that change something (log 4), the empty header log is a present
log with every field absent (log 11), the two faults are recorded while STARTING too (log 51), and a moment of another kind
than the transaction in progress is no step of it (log 3), and the status byte of a transaction that a soft reset cuts
stays as formed (log 60). -/
def Obligations.ReceivedFramesJoinOrRaiseFaults : Prop :=
  (∀ l s x, InTransaction .command l s x →
     let k := s.links.get l
     let closed (n : Nat) : State := s.setLink l { k with transaction := none, miso := x.status :: returned x [] n };
     (∀ tag code (payload : List Byte) extra, payload.length ≤ 60 →
       let n := 3 + payload.length + extra
       let c := Instr.commandFrame l tag code payload;
       (x.cut = false → k.commands.length < 8 → ∃ t, exec (c (.ends extra)) s = .next t
         ∧ t.links = s.links.set l { k with commands := k.commands ++ [⟨tag, code, payload⟩], transaction := none,
                                            miso := x.status :: returned x [] n }
         ∧ OnlyChanges [.links] s t)
       ∧ (x.cut = false → 8 ≤ k.commands.length → ∃ t, exec (c (.ends extra)) s = .next t
         ∧ t = raise .linkOverrun (linkOrigin l) .none
             (some ⟨some tag, some code, some (BitVec.ofNat 8 payload.length), payload.take 4⟩) (closed n)
         ∧ (t.links.get l).commands = k.commands ∧ OnlyChanges [.links, .faults] s t)
       ∧ (x.cut = true → exec (c (.ends extra)) s = .next (closed n))
       ∧ exec (c (.clocks extra)) s = .next (s.setLink l { k with
           transaction := some { x with kind := some .command, sent := returned x [] extra } }))
     ∧ (∀ received log, (match (received : List Byte) with
         | [] => log = (⟨none, none, none, []⟩ : HeaderLog)
         | [tag] => log = ⟨some tag, none, none, []⟩
         | [tag, code] => log = ⟨some tag, some code, none, []⟩
         | tag :: code :: length :: payload =>
           (60 < length.toNat ∧ log = ⟨some tag, some code, some length, []⟩)
             ∨ (length.toNat ≤ 60 ∧ payload.length < length.toNat ∧ log = ⟨some tag, some code, some length, payload.take 4⟩)) →
       (x.cut = false → ∃ t, exec (.malformedCommandFrame l (.ends received)) s = .next t
         ∧ t = raise .malformedFrame (linkOrigin l) .none (some log) (closed received.length)
         ∧ (t.links.get l).commands = k.commands ∧ OnlyChanges [.links, .faults] s t)
       ∧ (x.cut = true → exec (.malformedCommandFrame l (.ends received)) s = .next (closed received.length))))
  ∧ (∀ l kind n s x, InTransaction .unknown l s x → kind ≠ 0x31#8 → kind ≠ 0x32#8 → kind ≠ 0x33#8 → kind ≠ 0x3C#8 →
       let raised := if x.kind = none then raise .malformedFrame (linkOrigin l) .none (some ⟨none, none, none, []⟩) s else s;
       (∃ t, exec (.unknownKind l kind (.ends n)) s = .next t ∧ t.faults = raised.faults
         ∧ t.links = raised.links.set l { raised.links.get l with transaction := none, miso := x.status :: returned x [] n }
         ∧ (t.links.get l).commands = (s.links.get l).commands ∧ OnlyChanges [.links, .faults] s t)
       ∧ (∃ t, exec (.unknownKind l kind (.clocks n)) s = .next t ∧ t.faults = raised.faults
         ∧ (∃ dropped, t.links = raised.links.set l { raised.links.get l with
             transaction := some { x with kind := some .unknown, sent := returned x [] n, dropped := dropped } })
         ∧ OnlyChanges [.links, .faults] s t))
  ∧ (∀ l tag code (payload : List Byte) kind other s, payload.length ≤ 60 →
       kind ≠ 0x31#8 → kind ≠ 0x32#8 → kind ≠ 0x33#8 → kind ≠ 0x3C#8 →
       let k := s.links.get l
       let row (of : TransactionKind) : Moment Nat → Instr := match of with
         | .command => .commandFrame l tag code payload
         | .fetch => .fetch l
         | .bulk => .bulk l
         | .linkReset => .linkReset l
         | .unknown => .unknownKind l kind;
       (∀ c, c = row other .falls ∨ c = .malformedCommandFrame l .falls →
         ((∀ x, k.transaction = some x → x.kind = none) →
           exec c s = .next (s.setLink l { k with transaction := some ⟨statusByte s l, none, none, [], false, false⟩ }))
         ∧ (∀ x, k.transaction = some x → x.kind ≠ none → exec c s = .next s))
       ∧ (∀ x of n, k.transaction = some x → x.kind = some of → of ≠ other →
         exec (row other (.clocks n)) s = .next s ∧ exec (row other (.ends n)) s = .next s))
  ∧ (∀ l (tag code kind : Byte) (payload rest : List Byte), payload.length ≤ 60 →
       kind ≠ 0x31#8 → kind ≠ 0x32#8 → kind ≠ 0x33#8 → kind ≠ 0x3C#8 →
       let sent : List Byte := 0x31#8 :: tag :: code :: BitVec.ofNat 8 payload.length :: payload;
       transactionRow l [] = none
         ∧ transactionRow l (sent ++ rest) = some (.commandFrame l tag code payload (.ends rest.length))
         ∧ (∀ m, 0 < m → m < sent.length →
           transactionRow l (sent.take m) = some (.malformedCommandFrame l (.ends ((sent.take m).drop 1))))
         ∧ (∀ length : Byte, 60 < length.toNat → transactionRow l (0x31#8 :: tag :: code :: length :: rest)
           = some (.malformedCommandFrame l (.ends (tag :: code :: length :: rest))))
         ∧ transactionRow l (0x32#8 :: rest) = some (.fetch l (.ends rest.length))
         ∧ transactionRow l (0x33#8 :: rest) = some (.bulk l (.ends rest.length))
         ∧ transactionRow l (0x3C#8 :: rest) = some (.linkReset l (.ends rest.length))
         ∧ transactionRow l (kind :: rest) = some (.unknownKind l kind (.ends rest.length)))

/-- FETCH (R164, R166): with a record waiting the part returns its bytes, and the record leaves the queue exactly when all of
them have been clocked; with none, and while STARTING (R172), it returns the empty marker. The events-lost flag is cleared
when the status byte showed it and no event has been dropped since. A FETCH in progress at a soft reset completes with zeros
and removes no record (R171).
The status byte (R160, R180), its fields from bit 0 on: free command slots, records waiting, events lost, fault pending, bulk
ready, part phase. The level of ATTN (R167): low while the watermark is reached, a steered fault is pending or an export is
active.
The model's choices: the moments of a transaction are its fall, its kind byte with the bytes after it, and its end (log 4);
no waiting frame is taken with the freed place in the same step (log 46); while STARTING, when a FETCH clears the flag too,
the line is released (log 51); a soft reset leaves the status byte of the transaction it cuts as formed (log 60). -/
def Obligations.FetchReturnsTheOldestRecord : Prop :=
  (∀ l n s x, InTransaction .fetch l s x →
     let k := s.links.get l
     let record := if x.kind = none then (if s.starting = true then none else k.responses.head?) else x.record
     let lost := k.eventsLost && !(decide (x.kind = none) && x.status.getLsbD 3 && !x.dropped)
     let bytes := match record with
       | some r => r.bytes
       | none => [2#8, 0x00#8]
     let sent := returned x (bytes.take n) n
     let removed := x.cut = false ∧ record ≠ none ∧ bytes.length ≤ n;
     (∃ t, exec (.fetch l (.ends n)) s = .next t ∧ OnlyChanges [.links] s t
       ∧ t.links = s.links.set l { k with
           responses := if removed then k.responses.tail else k.responses
           eventsLost := lost, transaction := none, miso := x.status :: sent })
     ∧ (∃ t, exec (.fetch l (.clocks n)) s = .next t ∧ OnlyChanges [.links] s t
       ∧ t.links = s.links.set l { k with
           eventsLost := lost, transaction := some { x with kind := some .fetch, record := record, sent := sent } }))
  ∧ (∀ l n s, (s.links.get l).transaction = none →
       let k := s.links.get l;
       (∀ r rest, s.starting = false → k.responses = r :: rest →
         ∃ t, exec (.fetch l (.ends n)) s = .next t ∧ OnlyChanges [.links] s t
           ∧ t.links = s.links.set l { k with
               responses := if r.bytes.length ≤ n then rest else k.responses
               eventsLost := false
               miso := statusByte s l :: (r.bytes.take n ++ List.replicate (n - r.bytes.length) 0#8) })
       ∧ (s.starting = true ∨ k.responses = [] →
         ∃ t, exec (.fetch l (.ends n)) s = .next t ∧ OnlyChanges [.links] s t
           ∧ t.links = s.links.set l { k with
               eventsLost := false
               miso := statusByte s l :: ([2#8, 0x00#8].take n ++ List.replicate (n - 2) 0#8) }))
  ∧ (∀ l s,
       let k := s.links.get l
       let f := s.faults
       let steered (v : Steering) := v = .both ∨ (v = .panel ∧ l = .panel) ∨ (v = .bridge ∧ l = .bridge)
       let pending := (steered f.steering.notice ∧ ∃ i, f.notices.get i = true)
         ∨ (steered f.steering.error ∧ (f.error ≠ none ∨ f.errorNext = true))
         ∨ (steered f.steering.fatal ∧ (f.fatal ≠ none ∨ f.fatalNext = true))
       let b := statusByte s l;
       b.toNat % 4 = min 3 (8 - k.commands.length)
         ∧ (b.getLsbD 2 = true ↔ k.responses ≠ []) ∧ (b.getLsbD 3 = true ↔ k.eventsLost = true)
         ∧ (b.getLsbD 4 = true ↔ pending) ∧ (b.getLsbD 5 = true ↔ k.exporting ≠ none)
         ∧ b.toNat / 64 = (if s.starting = true then 1 else if s.arch.mount = .mounting then 2
             else if s.faults.fatal ≠ none then 3 else 0)
         ∧ (attnLow s l = true ↔ s.starting = false
           ∧ (k.watermark ≤ k.responses.length ∨ pending ∨ k.exporting ≠ none)))

/-- EXPORT, CANCEL_EXPORT and EXPORT_STALL (R116, R118): an accepted EXPORT pins the slot and opens the record at offset 0
with 5 s; its refusals in their order; the other two end an active export and release the pin, EXPORT_STALLED going to the
exporting link. That CANCEL_EXPORT takes any payload (log 6) and that a stall without an export leaves the state as it is
(log 3) are the model's choices.
BULK (R117, R169): with an active export and at least one byte clocked, the bytes of the slot from the offset on are
returned, at most 4,096 and at most those remaining, the offset advances by them and the stall timer is loaded with 5 s;
the delivery of the last byte ends the export with EXPORT_DONE. A BULK that delivers nothing, with or without an export,
changes nothing but the bytes returned. A BULK in progress at a soft reset completes with zeros (R171). The bytes of a
DAMAGED slot are free (log 23), and the data is delivered at the end of the transaction (log 4); the status byte of a BULK
that a soft reset cuts stays as formed (log 60). -/
def Obligations.ExportsBeginDeliverAndEnd : Prop :=
  (∀ l tag payload s,
     let k := s.links.get l
     let released (x : ExportRecord) : PageStore :=
       { s.store with slots := s.store.slots.set x.slot { s.slot x.slot with pins := (s.slot x.slot).pins - 1 } };
     (∀ (number : Byte) (n : Fin 24), canTake s l = true → number.toNat = n → halted s = false → k.exporting = none →
       (s.slot n).state ≠ .empty → (s.slot n).state ≠ .filling →
       ∃ t, exec (.exportSlot l tag [number]) s = .next t
         ∧ t.store = { s.store with slots := s.store.slots.set n { s.slot n with pins := (s.slot n).pins + 1 } }
         ∧ t.links = s.links.set l { k with exporting := some ⟨n, 0, 5000⟩,
                                            responses := k.responses ++ [.response tag 0x6C#8 .accepted []] }
         ∧ OnlyChanges [.links, .store] s t)
     ∧ (∀ (number : Byte), canTake s l = true →
       let c := Instr.exportSlot l tag [number];
       (23 < number.toNat → RefusedWith .badArgument c l tag 0x6C#8 s)
       ∧ (∀ n : Fin 24, number.toNat = n →
         (halted s = true → RefusedWith .halted c l tag 0x6C#8 s)
         ∧ (halted s = false → k.exporting ≠ none → RefusedWith .exportActive c l tag 0x6C#8 s)
         ∧ (halted s = false → k.exporting = none → (s.slot n).state = .empty → RefusedWith .slotEmpty c l tag 0x6C#8 s)
         ∧ (halted s = false → k.exporting = none → (s.slot n).state = .filling → RefusedWith .slotBusy c l tag 0x6C#8 s)))
     ∧ (∀ x, canTake s l = true → k.exporting = some x →
       ∃ t, exec (.cancelExport l tag payload) s = .next t ∧ t.store = released x
         ∧ t.links = s.links.set l { k with exporting := none, responses := k.responses ++ [.response tag 0x6D#8 .ok []] }
         ∧ OnlyChanges [.links, .store] s t)
     ∧ (canTake s l = true → k.exporting = none → RefusedWith .notFound (.cancelExport l tag payload) l tag 0x6D#8 s)
     ∧ (∀ x, k.exporting = some x →
       ∃ t, exec (.exportStall l) s = .next t ∧ t.store = released x
         ∧ t.links = s.links.set l (if k.responses.length < 16
             then { k with exporting := none, responses := k.responses ++ [.event (.exportStalled x.slot x.offset)] }
             else { k with exporting := none, eventsLost := true,
                           transaction := k.transaction.map fun y => { y with dropped := true } })
         ∧ OnlyChanges [.links, .store] s t)
     ∧ (k.exporting = none → exec (.exportStall l) s = .next s))
  ∧ (∀ l n s x, InTransaction .bulk l s x →
       let k := s.links.get l;
       (∀ e, x.cut = false → k.exporting = some e → e.offset < 18874368 →
         let count := min n (min 4096 (18874368 - e.offset))
         let data := (s.slot e.slot).content.readRun Config.dramBlank e.offset count
         let miso (t : State) : Prop :=
           t.freeCount = s.freeCount ∧ (t.links.get l).miso = x.status :: (data ++ List.replicate (n - count) 0#8);
         (0 < n → e.offset + count < 18874368 → ∃ t, exec (.bulk l (.ends n)) s = .next t
           ∧ t.links = s.links.set l { k with
               exporting := some ⟨e.slot, e.offset + count, 5000⟩, transaction := none, miso := (t.links.get l).miso }
           ∧ OnlyChanges [.links, .freeCount] s t ∧ ((s.slot e.slot).state ≠ .damaged → miso t))
         ∧ (0 < n → e.offset + count = 18874368 → ∃ t, exec (.bulk l (.ends n)) s = .next t
           ∧ (t.links.get l).exporting = none ∧ t.links.get (otherLink l) = s.links.get (otherLink l)
           ∧ (k.responses.length < 16 → (t.links.get l).responses = k.responses ++ [.event (.exportDone e.slot)])
           ∧ t.store = { s.store with
               slots := s.store.slots.set e.slot { s.slot e.slot with pins := (s.slot e.slot).pins - 1 } }
           ∧ OnlyChanges [.links, .store, .freeCount] s t ∧ ((s.slot e.slot).state ≠ .damaged → miso t))
         ∧ ((s.slot e.slot).state ≠ .damaged → exec (.bulk l (.clocks n)) s = .next (s.setLink l { k with
             transaction := some { x with kind := some .bulk, sent := data ++ List.replicate (n - count) 0#8 } })))
       ∧ (n = 0 ∨ k.exporting = none ∨ x.cut = true →
         exec (.bulk l (.ends n)) s
             = .next (s.setLink l { k with transaction := none, miso := x.status :: returned x [] n })
         ∧ exec (.bulk l (.clocks n)) s
             = .next (s.setLink l { k with transaction := some { x with kind := some .bulk, sent := returned x [] n } })))

/-- SET_WATERMARK and SET_EVENT_MASK (R168), with their refusals.
CLEAR_FAULTS and SET_FAULT_POLICY (R177, R178), by the operand codes of R182 and R183: a class is emptied, answered with its state before, and clearing FATAL
ends HALTED; a kind's mask and severity or a class's steering are stored, but DRAM_FAILURE keeps its own. When HALTED ends, the
Page Mover starts its head request, and the port goes on, at an idle port with a decision point (R176, GoesOn). That the mask
byte 1 says set and 0 clear is the model's reading of a flag (log 9). -/
def Obligations.LinkAndFaultSettingsAreStored : Prop :=
  (∀ l tag s, canTake s l = true →
     let k := s.links.get l;
     (∀ v : Byte, ∃ t, exec (.setWatermark l tag [v]) s = .next t ∧ OnlyChanges [.links] s t
       ∧ let w := if v.toNat < 1 then 1 else if 16 < v.toNat then 16 else v.toNat;
         t.links = s.links.set l { k with watermark := w, responses := k.responses
           ++ [.response tag 0x90#8 (if w = v.toNat then .ok else .clamped) [BitVec.ofNat 8 w]] })
     ∧ (∀ b0 b1 : Byte, b1.toNat < 16 → ∃ t, exec (.setEventMask l tag [b0, b1]) s = .next t ∧ OnlyChanges [.links] s t
       ∧ t.links = s.links.set l { k with mask := BitVec.ofNat 12 (b0.toNat + 256 * b1.toNat), responses := k.responses
           ++ [.response tag 0x91#8 .ok [b0, b1]] })
     ∧ (∀ b0 b1 : Byte, 16 ≤ b1.toNat → RefusedWith .badArgument (.setEventMask l tag [b0, b1]) l tag 0x91#8 s))
  ∧ (∀ l tag s, canTake s l = true →
       let stores (c : Instr) (code : Byte) (bytes : List Byte) (f : Faults) : Prop :=
         ∃ t, exec c s = .next t ∧ t.faults = f ∧ Answers l tag code .ok bytes s t ∧ OnlyChanges [.faults, .links] s t;
       stores (.clearFaults l tag [0#8]) 0xA1#8 (noticeBytes s.faults) { s.faults with notices := .replicate 15 false }
       ∧ stores (.clearFaults l tag [1#8]) 0xA1#8 (recordBytes s.faults.error ++ flag s.faults.errorNext)
           { s.faults with error := none, errorNext := false }
       ∧ (halted s = false ∨ (s.mover.queue = [] ∧ PortBusy s) →
         stores (.clearFaults l tag [2#8]) 0xA1#8 (recordBytes s.faults.fatal ++ flag s.faults.fatalNext)
           { s.faults with fatal := none, fatalNext := false })
       ∧ (∀ t, exec (.clearFaults l tag [2#8]) s = .next t → halted t = false)
       ∧ (halted s = true → ∃ t, exec (.clearFaults l tag [2#8]) s = .next t ∧ GoesOn { s with
           faults := { s.faults with fatal := none, fatalNext := false }
           mover := { s.mover with running := s.mover.running || decide (s.mover.queue ≠ []) }
           links := (respond l tag 0xA1#8 .ok (recordBytes s.faults.fatal ++ flag s.faults.fatalNext) s).links } t)
       ∧ (∀ cls : Byte, 2 < cls.toNat → RefusedWith .badArgument (.clearFaults l tag [cls]) l tag 0xA1#8 s)
       ∧ (∀ (kind mask severity : Byte) (k : Fin 15) (masked : Bool) (v : FaultClass), kind.toNat = k →
         (masked = false ∧ mask = 0#8) ∨ (masked = true ∧ mask = 1#8) →
         (v = .notice ∧ severity = 0#8) ∨ (v = .error ∧ severity = 1#8) ∨ (v = .fatal ∧ severity = 2#8) →
         (k ≠ 0 ∨ (masked = false ∧ v = .fatal) →
           stores (.setFaultPolicy l tag [0#8, kind, mask, severity]) 0xA2#8 [mask, severity]
             { s.faults with policy := s.faults.policy.set k ⟨masked, v⟩ })
         ∧ (k = 0 → masked = true ∨ v ≠ .fatal →
           RefusedWith .badArgument (.setFaultPolicy l tag [0#8, kind, mask, severity]) l tag 0xA2#8 s))
       ∧ (∀ (cls steering : Byte) (c : FaultClass) (v : Steering),
         (c = .notice ∧ cls = 0#8) ∨ (c = .error ∧ cls = 1#8) ∨ (c = .fatal ∧ cls = 2#8) →
         (v = .none ∧ steering = 0#8) ∨ (v = .panel ∧ steering = 1#8) ∨ (v = .bridge ∧ steering = 2#8)
           ∨ (v = .both ∧ steering = 3#8) →
         stores (.setFaultPolicy l tag [1#8, cls, steering]) 0xA2#8 [steering]
           { s.faults with steering := s.faults.steering.set c v })
       ∧ (∀ kind mask severity : Byte, 14 < kind.toNat ∨ 1 < mask.toNat ∨ 2 < severity.toNat →
         RefusedWith .badArgument (.setFaultPolicy l tag [0#8, kind, mask, severity]) l tag 0xA2#8 s)
       ∧ (∀ cls steering : Byte, 2 < cls.toNat ∨ 3 < steering.toNat →
         RefusedWith .badArgument (.setFaultPolicy l tag [1#8, cls, steering]) l tag 0xA2#8 s))

/-! ## Reading commands -/

/-- The ten reading commands without an operand are answered OK with their records and change nothing: READ_INTAKE (R10),
READ_CONDITIONER (R39), READ_VIEW (R54), READ_PRESENTATION (R78), READ_GUARD (R91), READ_LESSON (R110), READ_STORE (R109),
READ_ARCHIVE (R142), READ_LINK (R168), READ_FAULTS (R178). A declared payload is ignored (R10; for the others log 6). Four
answers are spelled out here; the byte functions of the others follow their tables in the order of R182. The model's choices in
the bytes: 1 for yes, on and set (log 9); a rule's records one after another, each written whole, and one presence byte for a
group such as the slot and offset of READ_LINK (log 10); a count only where the rule names one (log 13); what READ_ARCHIVE
shows of reclaim work between erases (log 32). -/
def Obligations.ReadingCommandsChangeNothing : Prop :=
  ∀ l tag (payload : List Byte) s, canTake s l = true →
    let answers (c : Instr) (code : Byte) (bytes : List Byte) : Prop :=
      ∃ t, exec c s = .next t ∧ Answers l tag code .ok bytes s t ∧ OnlyChanges [.links] s t;
    answers (.readIntake l tag payload) 0x10#8 (intakeBytes s)
    ∧ answers (.readConditioner l tag payload) 0x24#8
        (num1 s.cond.live.val ++ num1 s.cond.latchedNumber.val ++ num2 s.cond.sceneChanges ++ flag s.cond.primed)
    ∧ answers (.readView l tag payload) 0x33#8
        (let k := s.view.snapshot
         let pane (p : PaneSnapshot) : List Byte :=
          num2 p.view.z ++ num2 p.view.cx ++ num2 p.view.cy ++ num1 p.view.rotation.code ++ num2 p.x0 ++ num2 p.y0
            ++ num2 p.w ++ num2 p.h ++ flag p.running ++ num2 p.target ++ num1 p.step
         num4 k.frameNumber ++ pane k.panes.pane0 ++ pane k.panes.pane1)
    ∧ answers (.readPresentation l tag payload) 0x46#8 (presentationBytes l s.comp)
    ∧ answers (.readGuard l tag payload) 0x54#8 (guardBytes s.guard)
    ∧ answers (.readStore l tag payload) 0x64#8 (storeBytes s)
    ∧ answers (.readLesson l tag payload) 0x65#8
        (num1 s.store.lesson.length ++ s.store.lesson.flatMap fun n => num1 n.val ++ num1 (s.slot n).state.code)
    ∧ answers (.readArchive l tag payload) 0x76#8 (archiveBytes s)
    ∧ answers (.readLink l tag payload) 0x92#8
        (let k := s.links.get l
         num1 k.commands.length ++ num1 (k.responses.length + 1) ++ num1 k.watermark ++ num2 k.mask.toNat
          ++ flag k.eventsLost ++ optional 5 (k.exporting.map fun x => num1 x.slot.val ++ num4 x.offset)
          ++ flag (s.comp.staged.get l).isSome)
    ∧ answers (.readFaults l tag payload) 0xA0#8 (faultsBytes s)

/-- The five reading commands with an operand: READ_PROFILE (R21), READ_TILE (R38), READ_SLOT (R109), READ_ENTRY (R142) and
READ_JOBS (R158) are answered with the record they name and change nothing, and refuse a number outside its range; an unknown
form of READ_ENTRY is BAD_ARGUMENT (R182). The model's choices: of READ_ENTRY the length is looked at before MOUNTING, and
MOUNTING before the form, extent and lesson, since R142 numbers no order (log 41); in the bytes, 1 for yes (log 9), one presence byte for an optional group (log 10),
a count only where the rule names one (log 13), and the reclaim work that READ_JOBS shows (log 32). -/
def Obligations.NumberedReadsChangeNothing : Prop :=
  ∀ l tag s, canTake s l = true →
    let answers (c : Instr) (code : Byte) (r : Result) (bytes : List Byte) : Prop :=
      ∃ t, exec c s = .next t ∧ Answers l tag code r bytes s t ∧ OnlyChanges [.links] s t;
    (∀ b : Byte,
      (∀ n : Fin 4, b.toNat = n → answers (.readProfile l tag [b]) 0x21#8 .ok
        (let p := s.cond.profiles.get n
         num1 p.white ++ num2 p.gmax ++ num1 p.floor ++ num1 p.smooth ++ num1 p.coring ++ num1 p.sharpen ++ flag p.ink
          ++ num1 p.black ++ num1 p.chroma ++ flag (decide (n = s.cond.live))))
      ∧ (3 < b.toNat → RefusedWith .badArgument (.readProfile l tag [b]) l tag 0x21#8 s)
      ∧ (∀ n : Fin 24, b.toNat = n → answers (.readSlot l tag [b]) 0x63#8 .ok (slotRecordBytes s n))
      ∧ (23 < b.toNat → RefusedWith .badArgument (.readSlot l tag [b]) l tag 0x63#8 s)
      ∧ (b.toNat ≤ 47 → answers (.readJobs l tag [b]) 0x80#8 .ok (jobsBytes s b.toNat))
      ∧ (47 < b.toNat → answers (.readJobs l tag [b]) 0x80#8 .clamped (jobsBytes s 47)))
    ∧ (∀ column row : Byte,
      (∀ n : Fin 768, column.toNat < 32 → row.toNat < 24 → (n : Nat) = 32 * row.toNat + column.toNat →
        answers (.readTile l tag [column, row]) 0x23#8 .ok
          (num2 (s.cond.map.get n) ++ num1 (s.cond.lastRaw.get n) ++ num2 (s.cond.gains.get n) ++ flag s.cond.primed))
      ∧ (32 ≤ column.toNat ∨ 24 ≤ row.toNat → RefusedWith .badArgument (.readTile l tag [column, row]) l tag 0x23#8 s))
    ∧ (∀ b0 b1 : Byte,
      (∀ e : Fin 225, s.arch.mount ≠ .mounting → b0.toNat + 256 * b1.toNat = e →
        answers (.readEntry l tag [0#8, b0, b1]) 0x77#8 .ok (entryBytes s e))
      ∧ (s.arch.mount ≠ .mounting → 225 ≤ b0.toNat + 256 * b1.toNat →
        RefusedWith .badArgument (.readEntry l tag [0#8, b0, b1]) l tag 0x77#8 s)
      ∧ (s.arch.mount ≠ .mounting → b0 ≠ 0#8 →
        (∀ e, entryAt s b0.toNat b1.toNat = some e → answers (.readEntry l tag [1#8, b0, b1]) 0x77#8 .ok (entryBytes s e))
        ∧ (entryAt s b0.toNat b1.toNat = none → RefusedWith .notFound (.readEntry l tag [1#8, b0, b1]) l tag 0x77#8 s))
      ∧ (s.arch.mount ≠ .mounting → b0 = 0#8 →
        RefusedWith .badArgument (.readEntry l tag [1#8, b0, b1]) l tag 0x77#8 s)
      ∧ (s.arch.mount ≠ .mounting → ∀ (form : Byte) rest, 1 < form.toNat →
        RefusedWith .badArgument (.readEntry l tag (form :: rest)) l tag 0x77#8 s)
      ∧ (s.arch.mount = .mounting → ∀ form, RefusedWith .mounting (.readEntry l tag [form, b0, b1]) l tag 0x77#8 s)
      ∧ RefusedWith .badLength (.readEntry l tag []) l tag 0x77#8 s
      ∧ ∀ (form : Byte) rest, form.toNat ≤ 1 → rest.length ≠ 2 →
        RefusedWith .badLength (.readEntry l tag (form :: rest)) l tag 0x77#8 s)

/-! ## Page Conditioner -/

/-- A WRITE_PROFILE that names all nine fields stores each of them clamped into its range (R17, R19), and with the ink curve
on K is lowered to W - 64 where the margin is less (R20); the answer holds the profile number and the nine fields as stored.
It is CLAMPED exactly when a stored value is not the one written. The other profiles and the live number stand.
Fields that a WRITE_PROFILE does not name keep their values (R19), but for K, which the margin to W may lower (R20). A
profile number above 3 or a presence set of more than nine fields is refused BAD_ARGUMENT (R19).
SELECT_PROFILE (R22): a number from 0 to 3 becomes the live-profile number, and nothing else of the Conditioner changes:
the frame in progress keeps its latched profile. A number above 3 is refused BAD_ARGUMENT.
That a bad number or presence set is refused BAD_ARGUMENT whatever the length of the values is the model's order of R19's
checks (log 8), and that the ink byte 1 says on is its reading of a flag (log 9). -/
def Obligations.ProfilesAreWrittenAndSelected : Prop :=
  (∀ l tag s (number w g0 g1 f k t e i b c : Byte) (n : Fin 4), canTake s l = true → number.toNat = n →
     let clamp (v lo hi : Nat) : Nat := if v < lo then lo else if hi < v then hi else v
     let white := clamp w.toNat 160 255
     let gmax := clamp (g0.toNat + 256 * g1.toNat) 256 1024
     let black := clamp b.toNat 0 96
     let ink := decide (i = 1#8)
     let p : Profile :=
       { white, gmax, floor := clamp f.toNat 0 128, smooth := clamp k.toNat 1 8, coring := clamp t.toNat 0 31,
         sharpen := clamp e.toNat 0 64, ink, black := if ink = true ∧ white < black + 64 then white - 64 else black,
         chroma := clamp c.toNat 0 16 }
     let same := p.white = w.toNat ∧ p.gmax = g0.toNat + 256 * g1.toNat ∧ p.floor = f.toNat ∧ p.smooth = k.toNat
       ∧ p.coring = t.toNat ∧ p.sharpen = e.toNat ∧ p.black = b.toNat ∧ p.chroma = c.toNat
     let command := Instr.writeProfile l tag [number, 0xFF#8, 0x01#8, w, g0, g1, f, k, t, e, i, b, c];
     (i = 0#8 ∨ i = 1#8 → ∃ u, exec command s = .next u ∧ OnlyChanges [.cond, .links] s u
       ∧ u.cond = { s.cond with profiles := s.cond.profiles.set n p }
       ∧ (same → Answers l tag 0x20#8 .ok (BitVec.ofNat 8 n :: p.bytes) s u)
       ∧ (¬ same → Answers l tag 0x20#8 .clamped (BitVec.ofNat 8 n :: p.bytes) s u))
     ∧ (i ≠ 0#8 → i ≠ 1#8 → RefusedWith .badArgument command l tag 0x20#8 s))
  ∧ (∀ l tag s (number p0 p1 : Byte) (values : List Byte) (n : Fin 4), canTake s l = true → number.toNat = n →
       let presence := p0.toNat + 256 * p1.toNat
       let command := Instr.writeProfile l tag (number :: p0 :: p1 :: values);
       (∀ t, exec command s = .next t →
         let p := s.cond.profiles.get n
         let q := t.cond.profiles.get n
         (presence.testBit 0 = false → q.white = p.white) ∧ (presence.testBit 1 = false → q.gmax = p.gmax)
           ∧ (presence.testBit 2 = false → q.floor = p.floor) ∧ (presence.testBit 3 = false → q.smooth = p.smooth)
           ∧ (presence.testBit 4 = false → q.coring = p.coring) ∧ (presence.testBit 5 = false → q.sharpen = p.sharpen)
           ∧ (presence.testBit 6 = false → q.ink = p.ink)
           ∧ (presence.testBit 7 = false → q.black = p.black
             ∨ (q.ink = true ∧ q.white < p.black + 64 ∧ q.black = q.white - 64))
           ∧ (presence.testBit 8 = false → q.chroma = p.chroma))
       ∧ (512 ≤ presence → RefusedWith .badArgument command l tag 0x20#8 s)
       ∧ (∀ other : Byte, 3 < other.toNat →
         RefusedWith .badArgument (.writeProfile l tag (other :: p0 :: p1 :: values)) l tag 0x20#8 s))
  ∧ (∀ l tag s (b : Byte), canTake s l = true →
       (∀ n : Fin 4, b.toNat = n → ∃ t, exec (.selectProfile l tag [b]) s = .next t
         ∧ t.cond = { s.cond with live := n } ∧ Answers l tag 0x22#8 .ok [] s t ∧ OnlyChanges [.cond, .links] s t)
       ∧ (3 < b.toNat → RefusedWith .badArgument (.selectProfile l tag [b]) l tag 0x22#8 s))

/-! ## Camera -/

/-- CAMERA_FRAME_START (R2, R12, R23, R31) between frames: the lowest FREE buffer, or else the oldest unpinned COMPLETE one,
becomes FILLING and the target, the live profile is latched, the histograms are cleared and the gains formed. In STOPPED it
is ignored. Where the ring has none to give, which R12 says cannot occur, the model stops (log 26). -/
def Obligations.FrameStartTakesABuffer : Prop :=
  ∀ s,
    (s.intake.state = .stopped → exec .cameraFrameStart s = .next s)
    ∧ (∀ b, s.intake.state = .between →
      ((s.ring.buffers.get b).state = .free ∧ (∀ c, c < b → (s.ring.buffers.get c).state ≠ .free))
        ∨ ((∀ c, (s.ring.buffers.get c).state ≠ .free)
          ∧ ∃ older newer, s.ring.order = older ++ b :: newer ∧ (s.ring.buffers.get b).pins = 0
            ∧ ∀ c ∈ older, (s.ring.buffers.get c).pins ≠ 0) →
      ∃ t, exec .cameraFrameStart s = .next t
        ∧ t.intake = { s.intake with state := .inFrame, lineCount := 0, target := some b, watch := none,
                                     lineGap := some 5, lineOpen := false }
        ∧ t.ring.buffers = s.ring.buffers.set b
            { s.ring.buffers.get b with state := .filling, frameNumber := 0, damaged := false }
        ∧ t.ring.order = s.ring.order.filter (fun c => decide (c ≠ b))
        ∧ t.cond = { s.cond with latched := s.cond.profiles.get s.cond.live, latchedNumber := s.cond.live,
                                 histograms := t.cond.histograms, gains := t.cond.gains, y1Above := [], y1Last := [],
                                 chromaEven := [] }
        ∧ (∀ i j, (t.cond.histograms.get i).get j = 0)
        ∧ (∀ i, t.cond.gains.get i = tileGain (s.cond.profiles.get s.cond.live) (s.cond.map.get i))
        ∧ OnlyChanges [.intake, .ring, .cond] s t)
    ∧ (s.intake.state = .between → (∀ c, (s.ring.buffers.get c).state ≠ .free) →
      (∀ c ∈ s.ring.order, (s.ring.buffers.get c).pins ≠ 0) → exec .cameraFrameStart s = .fault .ringHasNoBuffer)

/-- A frame in progress is truncated by a frame start, by a short line, or by the line-gap timer (R6): its buffer returns to
FREE, the truncated count grows, INTAKE_TRUNCATED is raised, and the map stands. The short line and the expiry leave the
Intake in BETWEEN with the watch timer loaded; the frame start begins the new frame, in which the buffer given back can be
taken again.
INTAKE_WATCH_EXPIRY (R7, R8): with INTAKE_LOSS clear the loss begins with its fault and the source level 1; during a loss
the timer only stops. With the timer stopped there is no such step (log 3). That the truncation puts the histograms to 0, and
that a line counts at its end, are the model's choices (log 49), as is the mark that a line has started (log 25). -/
def Obligations.FramesAreTruncatedAndIntakeIsLost : Prop :=
  (∀ s b, s.intake.state = .inFrame → s.intake.target = some b →
     let ended (t : State) : Prop :=
       t.intake = { s.intake with state := .between, lineCount := 0, target := none, watch := some 200, lineGap := none,
                                  lineOpen := false,
                                  truncated := if s.intake.truncated < 65535 then s.intake.truncated + 1
                                               else s.intake.truncated }
       ∧ t.ring = { s.ring with
           buffers := s.ring.buffers.set b { s.ring.buffers.get b with state := .free, frameNumber := 0 } }
       ∧ t.cond = { s.cond with histograms := .replicate 768 (.replicate 16 0) }
       ∧ t.faults = (raiseInternal .intakeTruncated .none s).faults ∧ t.links = (raiseInternal .intakeTruncated .none s).links
       ∧ OnlyChanges [.intake, .ring, .cond, .faults, .links] s t;
     (s.intake.lineGap.isSome = true → ∃ t, exec .lineGapTimerExpiry s = .next t ∧ ended t)
     ∧ (∀ samples : List Byte, s.intake.lineOpen = true → samples.length < 8192 →
       ∃ t, exec (.cameraLineEnd samples) s = .next t ∧ ended t)
     ∧ (∃ u, ended u ∧ exec .cameraFrameStart s = exec .cameraFrameStart u
       ∧ ∃ t c, exec .cameraFrameStart s = .next t ∧ t.intake.state = .inFrame ∧ t.intake.target = some c))
  ∧ (∀ s,
       (s.intake.state = .between → s.intake.watch.isSome = true → s.intake.loss = false →
         ∃ t, exec .intakeWatchExpiry s = .next t ∧ t.intake = { s.intake with watch := none, loss := true }
           ∧ t.guard.lossLevel = true
           ∧ ((s.faults.policy.get FaultKind.intakeLoss.index) = ⟨false, .error⟩ → s.faults.error = none →
             t.faults.error = some ⟨.intakeLoss, .internal, .none, none, s.comp.frameCounter, s.store.clock⟩)
           ∧ OnlyChanges [.intake, .guard, .faults, .links] s t)
       ∧ (s.intake.state = .between → s.intake.watch.isSome = true → s.intake.loss = true →
         ∃ t, exec .intakeWatchExpiry s = .next t ∧ t.intake = { s.intake with watch := none } ∧ OnlyChanges [.intake] s t)
       ∧ (s.intake.watch = none → exec .intakeWatchExpiry s = .next s))

/-- CAMERA_LINE_START and a whole CAMERA_LINE_END that is not the frame's last (R3, R24, R37): the start loads the line-gap
timer with 5 ms; the end counts the line and stores the conditioned rows into the target buffer only, where every byte
outside the rows written stands. Outside IN_FRAME both are ignored, and so is LINE_GAP_TIMER_EXPIRY.
The last whole line completes the frame (R5, R8, R11, R25, R27): the frame counter, wrapping, becomes the buffer's frame
number, the buffer is COMPLETE and the newest of the completion list, the loss ends, and the Intake is in BETWEEN. An
unprimed map, or the end of a loss, loads every tile with four times its raw estimate. A primed one makes the scene test
(R28): more than 384 tiles moved by more than 64 load the map, count and post SCENE_CHANGE; otherwise every tile moves by the
smoothing step, rounded toward zero (R29).
What the rows hold (R1, R4, R33, R34, R35, R36, R37): the luma row above the line, and row 3,071, are the sharpened and ink-curved Y1 of their
three rows; at an odd line the chroma rows are the rounded means of two lines, scaled.
A line is conditioned and counted at its end (log 49), a line end without its start in this frame is not taken (log 25), and
events outside IN_FRAME leave the state as it is (log 3): the model's choices. -/
def Obligations.LinesAreTakenAndCompleteTheFrame : Prop :=
  (∀ s (samples : List Byte),
     (s.intake.state = .inFrame → ∃ t, exec .cameraLineStart s = .next t
       ∧ t.intake = { s.intake with lineGap := some 5, lineOpen := true } ∧ OnlyChanges [.intake] s t)
     ∧ (∀ b, s.intake.state = .inFrame → s.intake.lineOpen = true → s.intake.target = some b → 8192 ≤ samples.length →
       s.intake.lineCount < 3071 → ∃ t, exec (.cameraLineEnd samples) s = .next t
         ∧ t.intake = { s.intake with lineCount := s.intake.lineCount + 1, lineGap := some 5, lineOpen := false }
         ∧ t.ring.order = s.ring.order
         ∧ (∀ c, t.ring.buffers.get c = { s.ring.buffers.get c with content := (t.ring.buffers.get c).content })
         ∧ (∀ c, c ≠ b → t.ring.buffers.get c = s.ring.buffers.get c)
         ∧ (∀ a, (∀ p ∈ lineStores s samples, a < p.1 ∨ p.1 + p.2 ≤ a) →
           (t.ring.buffers.get b).content.read Config.dramBlank a = (s.ring.buffers.get b).content.read Config.dramBlank a)
         ∧ t.cond = { s.cond with
             histograms := countLine s.cond.histograms s.intake.lineCount (lineLuma (samples.take 8192))
             y1Above := s.cond.y1Last
             y1Last := normalisedRow s.cond s.intake.lineCount (lineLuma (samples.take 8192))
             chromaEven := if s.intake.lineCount % 2 = 0 then lineChroma (samples.take 8192) else s.cond.chromaEven }
         ∧ OnlyChanges [.intake, .ring, .cond] s t)
     ∧ (s.intake.state ≠ .inFrame → exec .cameraLineStart s = .next s ∧ exec (.cameraLineEnd samples) s = .next s
       ∧ exec .lineGapTimerExpiry s = .next s))
  ∧ (∀ s b (samples : List Byte), s.intake.state = .inFrame → s.intake.lineOpen = true → s.intake.target = some b →
       8192 ≤ samples.length → s.intake.lineCount = 3071 →
       ∃ t, exec (.cameraLineEnd samples) s = .next t
         ∧ (let frame := if s.intake.frameCounter + 1 < 4294967296 then s.intake.frameCounter + 1 else 0
           t.intake = { s.intake with state := .between, lineCount := 0, target := none, watch := some 200, lineGap := none,
                                      lineOpen := false, frameCounter := frame, loss := false, lossEnded := false }
           ∧ t.ring.order = s.ring.order ++ [b]
           ∧ (t.ring.buffers.get b).state = .complete ∧ (t.ring.buffers.get b).frameNumber = frame
           ∧ (t.ring.buffers.get b).pins = (s.ring.buffers.get b).pins)
         ∧ (∀ c, c ≠ b → t.ring.buffers.get c = s.ring.buffers.get c)
         ∧ t.guard.lossLevel = false ∧ t.cond.primed = true
         ∧ t.cond.bufferProfile = s.cond.bufferProfile.set b s.cond.latchedNumber
         ∧ (∀ i, t.cond.lastRaw.get i = rawEstimate ((countLine s.cond.histograms 3071 (lineLuma (samples.take 8192))).get i))
         ∧ (s.cond.primed = false ∨ s.intake.loss = true → (∀ i, t.cond.map.get i = 4 * t.cond.lastRaw.get i)
           ∧ t.cond.sceneChanges = s.cond.sceneChanges)
         ∧ (s.cond.primed = true → s.intake.loss = false → s.intake.lossEnded = false → s.guard.lossLevel = false →
           let four (i : Fin 768) : Nat := 4 * t.cond.lastRaw.get i
           let moved := (List.finRange 768).countP fun i =>
             decide (s.cond.map.get i + 64 < four i ∨ four i + 64 < s.cond.map.get i)
           let count := if s.cond.sceneChanges < 65535 then s.cond.sceneChanges + 1 else s.cond.sceneChanges;
           (384 < moved → (∀ i, t.cond.map.get i = four i) ∧ t.cond.sceneChanges = count
             ∧ t.links = (postByMask (.sceneChange t.intake.frameCounter moved count) s).links)
           ∧ (moved ≤ 384 → s.cond.latched.smooth ≤ 8 → t.cond.sceneChanges = s.cond.sceneChanges ∧ t.links = s.links
             ∧ ∀ i, (t.cond.map.get i : Int) = (s.cond.map.get i : Int)
                 + Int.tdiv (((four i : Int) - s.cond.map.get i) * s.cond.latched.smooth) 8))
         ∧ OnlyChanges [.intake, .ring, .cond, .guard, .faults, .links] s t)
  ∧ (∀ s b (samples : List Byte), s.intake.state = .inFrame → s.intake.lineOpen = true → s.intake.target = some b →
       8192 ≤ samples.length → s.intake.lineCount ≤ 3071 →
       let y := s.intake.lineCount
       let c := s.cond
       let p := c.latched
       let sample (n : Nat) : Nat := (samples.getD n 0#8).toNat;
       (1 ≤ y → c.y1Last.length = 4096) → (2 ≤ y → c.y1Above.length = 4096) → (y % 2 = 1 → c.chromaEven.length = 2048) →
       ∃ t, exec (.cameraLineEnd samples) s = .next t
         ∧ (let stored (a : Nat) : Byte := (t.ring.buffers.get b).content.read Config.dramBlank a
           let y1 (row : List Nat) (x : Int) : Nat := row.getD (if x < 0 then 0 else if 4095 < x then 4095 else x.toNat) 0
           let blurred (above row below : List Nat) (x : Int) : Nat :=
             (y1 above (x - 1) + 2 * y1 above x + y1 above (x + 1) + 2 * y1 row (x - 1) + 4 * y1 row x + 2 * y1 row (x + 1)
               + y1 below (x - 1) + 2 * y1 below x + y1 below (x + 1) + 8) / 16
           let y2 (above row below : List Nat) (x : Int) : Int :=
             let d : Int := (y1 row x : Int) - blurred above row below x
             let cored : Int := if p.coring < d then d - p.coring else if d < -(p.coring : Int) then d + p.coring else 0
             (y1 row x : Int) + Int.fdiv (cored * p.sharpen + 8) 16
           let y3 (above row below : List Nat) (x : Int) : Byte :=
             let v := y2 above row below x
             BitVec.ofNat 8 (inkCurve p (if v < 0 then 0 else if 255 < v then 255 else v.toNat))
           let now := t.cond.y1Last;
           (∀ x, x < 4096 → now.getD x 0 = normalise (sample (2 * x + 1)) (pixelGain c.gains x y))
           ∧ (1 ≤ y → ∀ x : Nat, x < 4096 →
             stored (4096 * (y - 1) + x) = y3 (if y = 1 then c.y1Last else c.y1Above) c.y1Last now x)
           ∧ (y = 3071 → ∀ x : Nat, x < 4096 → stored (4096 * 3071 + x) = y3 c.y1Last now now x)
           ∧ (y % 2 = 0 → ∀ q, q < 2048 → t.cond.chromaEven.getD q (0, 0) = (sample (4 * q), sample (4 * q + 2)))
           ∧ (y % 2 = 1 → ∀ q, q < 2048 →
             stored (12582912 + 2048 * (y / 2) + q)
                 = BitVec.ofNat 8 (chromaLevel p (((c.chromaEven.getD q (0, 0)).1 + sample (4 * q) + 1) / 2))
             ∧ stored (15728640 + 2048 * (y / 2) + q)
                 = BitVec.ofNat 8 (chromaLevel p (((c.chromaEven.getD q (0, 0)).2 + sample (4 * q + 2) + 1) / 2)))))

/-! ## View Unit -/

/-- ZOOM_TO, PAN_BY and SET_ROTATION (R49, R52, R53): the values are clamped and stored in the named pane's ramp or pending
record, nothing else of the View Unit changes, and a pane or rotation outside its values is refused BAD_ARGUMENT. The views
themselves change only at an output frame start.
The View Unit's work at an output frame start, for a pane with no view delivered (R48, R50, R52, R53): a running ramp
moves Z by its step without passing the target, the pending pan moves the centre, which is clamped against the window of the
new Z, the pending rotation is applied and the pending record emptied; a ramp that reached its target stops. At that frame start
RAMP_DONE goes to the ramp's issuer and by the mask to the other link, with the pane, the final Z, the ZOOM_TO's tag and this
output frame's number (R50, R165); it is stated where the frame start posts nothing else: no apply adopted, no pane READY or
marked to unfreeze. That pane 0's goes first is the model's choice (log 37). -/
def Obligations.ViewCommandsAndFrameStartMoveTheViews : Prop :=
  (∀ l tag s (pane : Byte) (q : Pane), canTake s l = true →
     let clamp (v lo hi : Int) : Int := if v < lo then lo else if hi < v then hi else v;
     ((q = .zero ∧ pane = 0#8) ∨ (q = .one ∧ pane = 1#8) →
       (∀ z0 z1 step : Byte, ∃ t, exec (.zoomTo l tag [pane, z0, z1, step]) s = .next t
         ∧ OnlyChanges [.view, .links] s t
         ∧ let z := z0.toNat + 256 * z1.toNat
           let target := if z < 64 then 64 else if 512 < z then 512 else z
           let by_ := if step.toNat < 1 then 1 else if 64 < step.toNat then 64 else step.toNat;
           t.view = { s.view with ramps := s.view.ramps.set q ⟨true, target, by_, some l, tag⟩ }
           ∧ Answers l tag 0x30#8 (if target = z ∧ by_ = step.toNat then .accepted else .clamped) [] s t)
       ∧ (∀ x0 x1 y0 y1 : Byte, ∃ t, exec (.panBy l tag [pane, x0, x1, y0, y1]) s = .next t
         ∧ OnlyChanges [.view, .links] s t
         ∧ let p := s.view.pending.get q
           let signed (b0 b1 : Byte) : Int :=
             if b1.toNat < 128 then b0.toNat + 256 * b1.toNat else b0.toNat + 256 * b1.toNat - 65536
           let dx := signed x0 x1
           let dy := signed y0 y1
           let sx := clamp (p.dx + clamp dx (-4096) 4096) (-4096) 4096
           let sy := clamp (p.dy + clamp dy (-3072) 3072) (-3072) 3072;
           t.view = { s.view with pending := s.view.pending.set q ⟨sx, sy, p.rotation⟩ }
           ∧ Answers l tag 0x31#8 (if clamp dx (-4096) 4096 = dx ∧ sx = p.dx + dx ∧ clamp dy (-3072) 3072 = dy
               ∧ sy = p.dy + dy then .ok else .clamped) [] s t)
       ∧ (∀ (rotation : Byte) (r : Rotation), (r = .deg0 ∧ rotation = 0#8) ∨ (r = .deg180 ∧ rotation = 1#8) →
         ∃ t, exec (.setRotation l tag [pane, rotation]) s = .next t ∧ OnlyChanges [.view, .links] s t
           ∧ t.view = { s.view with
               pending := s.view.pending.set q { s.view.pending.get q with rotation := some r } }
           ∧ Answers l tag 0x32#8 .ok [] s t)
       ∧ (∀ rotation : Byte, 1 < rotation.toNat →
         RefusedWith .badArgument (.setRotation l tag [pane, rotation]) l tag 0x32#8 s))
     ∧ (1 < pane.toNat → ∀ b0 b1 b2 b3 : Byte,
       RefusedWith .badArgument (.zoomTo l tag [pane, b0, b1, b2]) l tag 0x30#8 s
       ∧ RefusedWith .badArgument (.panBy l tag [pane, b0, b1, b2, b3]) l tag 0x31#8 s
       ∧ RefusedWith .badArgument (.setRotation l tag [pane, b0]) l tag 0x32#8 s))
  ∧ (∀ s t q, s.starting = false → exec .outputFrameStart s = .next t →
       (∀ p, s.comp.pendingApply = some p → anyActive s.guard = true ∨ p.staged.viewMarks.get q = false) →
       let v := s.view.views.get q
       let r := s.view.ramps.get q
       let p := s.view.pending.get q
       let z := if r.running then (if v.z < r.target then min (v.z + r.step) r.target else max (v.z - r.step) r.target) else v.z
       let clamp (c lo hi : Int) : Int := if c < lo then lo else if hi < c then hi else c
       let w : Int := windowW z
       let h : Int := windowH z
       let view := t.view.views.get q;
       view.z = z ∧ view.rotation = p.rotation.getD v.rotation
         ∧ (64 ≤ z → (view.cx : Int) = clamp (v.cx + p.dx) (w / 2) (4096 - w / 2)
           ∧ (view.cy : Int) = clamp (v.cy + p.dy) (h / 2) (3072 - h / 2))
         ∧ t.view.ramps.get q = { r with running := r.running && decide (z ≠ r.target) }
         ∧ t.view.pending.get q = ⟨0, 0, none⟩
         ∧ t.view.snapshot.frameNumber = t.comp.frameCounter
         ∧ (t.view.snapshot.panes.get q).view = view ∧ (t.view.snapshot.panes.get q).w = windowW z
         ∧ (t.view.snapshot.panes.get q).x0 = view.cx - windowW z / 2)
  ∧ (∀ s t, s.starting = false → exec .outputFrameStart s = .next t → s.comp.pendingApply = none ∨ anyActive s.guard = true →
       (∀ q, s.comp.unfreeze.get q = none ∧ ∀ l g, s.comp.freeze.get q ≠ .ready l g) →
       let done (q : Pane) (u : State) : State :=
         let r := s.view.ramps.get q;
         if r.running = true ∧ (t.view.views.get q).z = r.target
         then postFor (.rampDone q r.target r.tag t.comp.frameCounter) r.issuer u else u
       t.links = (done .one (done .zero s)).links)

/-! ## Compositor -/

/-- OUTPUT_FRAME_START (R60, R61, R66, R72, R73): the frame counter grows, wrapping, and no late line is left. With no
override ACTIVE a pending apply is adopted and is then absent; with one ACTIVE it stays. Every unfreeze mark is cleared.
While STARTING there is no output frame (R172). At an adoption (R66) each marked item replaces the active one, a shown pane
whose slot is EMPTY or FILLING becomes BLANK, a marked view is delivered whole and stops the pane's ramp; a pending pan or
rotation then acts on it, its centre clamped against its window (R48); stated for panes neither READY nor marked (R61).
The whole frame start: a READY pane is switched to FREEZE, or to BLANK where slot 0 is EMPTY, or stays READY where it is
FILLING (R69); a marked pane with the source FREEZE becomes LIVE (R70). The slot pins follow the set (R71). A shown LIVE pane
under a HOLD keeps its held pin, or takes one on the held buffer there is, or its current pin becomes it, or it takes the newest
complete buffer; the end of a hold releases it, and with no held pin left there is no held buffer (R73, R74). An advancing
pane's current pin moves to the newest complete buffer (R72). What each pane shows follows R73, R75 and R78. The events, in
this order: APPLIED with PRESENTATION_CHANGED, FROZEN with PRESENTATION_CHANGED, PRESENTATION_CHANGED of an unfreeze, RAMP_DONE
(R50, R51, R66, R69, R70). The model's choices: pane 0 before pane 1 (log 36 for held pins, log 37 for events), the fields of
PRESENTATION_CHANGED for a switch and an unfreeze (log 17), the link of an unfreeze mark (log 38), and the order in which the
shown values are settled (log 35). A held pin without a hold, which no run reaches, stays. -/
def Obligations.FrameStartAdoptsAndPins : Prop :=
  (∀ s,
     (s.starting = false → ∃ t, exec .outputFrameStart s = .next t
       ∧ t.comp.frameCounter = (if s.comp.frameCounter + 1 < 4294967296 then s.comp.frameCounter + 1 else 0)
       ∧ t.comp.lateLines = [] ∧ t.comp.scanning = true ∧ t.comp.underruns = s.comp.underruns
       ∧ t.comp.staged = s.comp.staged
       ∧ (anyActive s.guard = true → t.comp.pendingApply = s.comp.pendingApply ∧ t.comp.active.layout = s.comp.active.layout)
       ∧ (anyActive s.guard = false → t.comp.pendingApply = none
         ∧ (∀ p, s.comp.pendingApply = some p → t.comp.active.layout
             = if p.staged.layoutMark then p.staged.layout else s.comp.active.layout)
         ∧ (s.comp.pendingApply = none → t.comp.active.layout = s.comp.active.layout))
       ∧ (∀ q, t.comp.unfreeze.get q = none
         ∧ (t.comp.display.get q).currentPin = (if isAdvancing t q then s.ring.order.getLast? else none))
       ∧ t.ring.order = s.ring.order
       ∧ (∀ b, t.ring.buffers.get b = { s.ring.buffers.get b with pins := (t.ring.buffers.get b).pins })
       ∧ (∀ n, t.slot n = { s.slot n with pins := (t.slot n).pins })
       ∧ OnlyChanges [.comp, .view, .ring, .store, .links] s t)
     ∧ (s.starting = true → exec .outputFrameStart s = .next s))
  ∧ (∀ s t p, s.starting = false → exec .outputFrameStart s = .next t → anyActive s.guard = false →
       s.comp.pendingApply = some p →
       (∀ q, s.comp.unfreeze.get q = none ∧ ∀ l g, s.comp.freeze.get q ≠ .ready l g) →
       ∀ q,
         let source := if p.staged.sourceMarks.get q then p.staged.sources.get q else s.comp.active.sources.get q
         let shown := q = .zero ∨ t.comp.active.layout = .split
         let unfit (n : Fin 24) : Prop := (s.slot n).state = .empty ∨ (s.slot n).state = .filling
         let blanked := shown ∧ ((source = .freeze ∧ unfit 0) ∨ ∃ n, source = .slot n ∧ unfit n);
         (blanked → t.comp.active.sources.get q = .blank) ∧ (¬ blanked → t.comp.active.sources.get q = source)
           ∧ (p.staged.viewMarks.get q = true → (t.view.ramps.get q).running = false
             ∧ (let v := p.staged.views.get q
               let d := s.view.pending.get q
               let clamp (c lo hi : Int) : Int := if c < lo then lo else if hi < c then hi else c
               let w : Int := windowW v.z
               let h : Int := windowH v.z
               let view := t.view.views.get q;
               view.z = v.z ∧ view.rotation = d.rotation.getD v.rotation
                 ∧ (64 ≤ v.z → (view.cx : Int) = clamp (v.cx + d.dx) (w / 2) (4096 - w / 2)
                   ∧ (view.cy : Int) = clamp (v.cy + d.dy) (h / 2) (3072 - h / 2))
                 ∧ t.view.pending.get q = ⟨0, 0, none⟩ ∧ (t.view.snapshot.panes.get q).view = view)))
  ∧ (∀ s t, s.starting = false → exec .outputFrameStart s = .next t →
       let frame := t.comp.frameCounter
       let adopted : Option PendingApply := if anyActive s.guard = true then none else s.comp.pendingApply
       let layout : Layout := match adopted with
         | some p => if p.staged.layoutMark = true then p.staged.layout else s.comp.active.layout
         | none => s.comp.active.layout
       let shown (q : Pane) : Bool := decide (q = .zero ∨ layout = .split)
       let slotOf (v : PaneSource) : Option (Fin 24) := match v with
         | .freeze => some 0
         | .slot n => some n
         | .live | .blank => none
       let merged (q : Pane) : PaneSource := match adopted with
         | some p => if p.staged.sourceMarks.get q = true then p.staged.sources.get q else s.comp.active.sources.get q
         | none => s.comp.active.sources.get q
       let blanked (q : Pane) : Bool := adopted.isSome && shown q && (slotOf (merged q)).any fun n =>
         decide ((s.slot n).state = .empty ∨ (s.slot n).state = .filling)
       let zero := (s.slot 0).state
       let adoptedSource (q : Pane) : PaneSource := if blanked q = true then .blank else merged q
       let switchedSource (q : Pane) : PaneSource := match s.comp.freeze.get q with
         | .ready _ _ => if zero = .empty then .blank else if zero = .filling then adoptedSource q else .freeze
         | .none | .copying _ _ => adoptedSource q
       let source (q : Pane) : PaneSource :=
         if s.comp.unfreeze.get q ≠ none ∧ switchedSource q = .freeze then .live else switchedSource q
       let wanted (q : Pane) : Option (Fin 24) := if shown q = true then slotOf (source q) else none
       let applies (a : PaneAction) (q : Pane) : Bool := (List.finRange 3).any fun i =>
         let o := s.guard.overrides.get i
         o.active && decide (o.record.paneAction = a) && decide (o.record.mask = .both
           ∨ (o.record.mask = .pane0 ∧ q = .zero) ∨ (o.record.mask = .pane1 ∧ q = .one))
       let live (q : Pane) : Bool := shown q && decide (source q = .live)
       let held (q : Pane) : Bool := live q && applies .hold q
       let advances (q : Pane) : Bool := live q && !applies .hold q && !applies .blank q
       let was (q : Pane) : PaneDisplay := s.comp.display.get q
       let newest := s.ring.order.getLast?
       let takes (q : Pane) : Bool := held q && !(was q).heldPin
       let chosen (q : Pane) (b : Option (Fin 4)) : Option (Fin 4) :=
         if takes q = true then (b.or (was q).currentPin).or newest else b
       let held0 := chosen .zero s.comp.heldBuffer
       let held1 := chosen .one held0;
       (t.comp.active = ⟨layout, ⟨source .zero, source .one⟩⟩
         ∧ ∀ q, t.comp.freeze.get q = match s.comp.freeze.get q with
           | .ready l g => if zero = .filling then .ready l g else .none
           | .copying l g => .copying l g
           | .none => .none)
       ∧ (let moved (q : Pane) (n : Fin 24) (pins : Nat) : Nat :=
           if (was q).slotPin = wanted q then pins
           else pins + (if wanted q = some n then 1 else 0) - (if (was q).slotPin = some n then 1 else 0);
         (∀ q, (t.comp.display.get q).slotPin = wanted q) ∧ t.store = { s.store with slots := t.store.slots }
         ∧ ∀ n, (t.slot n).pins = moved .one n (moved .zero n (s.slot n).pins))
       ∧ (∀ q, (t.comp.display.get q).held = (held q && (!(was q).heldPin || (was q).held))
         ∧ (t.comp.display.get q).heldPin = if held q = true
             then (was q).heldPin || (if q = .zero then held0 else held1).isSome
             else (was q).heldPin && !(was q).held)
       ∧ t.comp.heldBuffer = (if (t.comp.display.get .zero).heldPin || (t.comp.display.get .one).heldPin then held1 else none)
       ∧ (∀ c,
         let one (b : Option (Fin 4)) : Nat := if b = some c then 1 else 0
         let hold (q : Pane) (b : Option (Fin 4)) (pins : Nat) : Nat :=
           if takes q = false then pins
           else if b ≠ none then pins + one b - one (was q).currentPin
           else if (was q).currentPin ≠ none then pins
           else pins + one newest
         let move (q : Pane) (pins : Nat) : Nat :=
           pins + (if advances q = true then one newest else 0) - (if takes q = true then 0 else one (was q).currentPin)
         let release (q : Pane) (pins : Nat) : Nat :=
           if (was q).held = true ∧ (was q).heldPin = true ∧ held q = false then pins - one held1 else pins;
         (t.ring.buffers.get c).pins = release .one (release .zero (move .one (move .zero
           (hold .one held0 (hold .zero s.comp.heldBuffer (s.ring.buffers.get c).pins))))))
       ∧ (∀ q, let d := t.comp.display.get q
         (d.shown, d.page) =
           if shown q = false then (.notShown, .none)
           else if applies .blank q = true then (if d.held = true then .heldBlank else .overrideBlank, .none)
           else match source q with
             | .blank => (.blankSource, .none)
             | .freeze => (.picture, .slot 0)
             | .slot n => (.picture, .slot n)
             | .live =>
               match (if d.held = true then (if d.heldPin = true then t.comp.heldBuffer else none) else d.currentPin) with
               | some b => (if d.held = true then .held else .picture, .ring b)
               | none => (.noFrame, .none))
       ∧ (let applied (u : State) : State := match adopted with
           | some p => postSubscribed (.presentationChanged .apply frame p.link layout (adoptedSource .zero)
                 (adoptedSource .one) (blanked .zero) (blanked .one)) (otherLink p.link)
               (postTo (.applied p.tag frame (blanked .zero) (blanked .one)) p.link u)
           | none => u
         let switched (q : Pane) (v w : PaneSource) (u : State) : State := match s.comp.freeze.get q with
           | .ready l g =>
             if zero = .filling then u
             else postSubscribed (.presentationChanged .freeze frame l layout v w (decide (zero = .empty ∧ q = .zero))
                 (decide (zero = .empty ∧ q = .one))) (otherLink l)
               (postTo (.frozen q (if zero = .empty then .blanked else .switched) frame g) l u)
           | .none | .copying _ _ => u
         let unfrozen (q : Pane) (v w : PaneSource) (u : State) : State := match s.comp.unfreeze.get q with
           | some l =>
             if switchedSource q = .freeze then postIssued (.presentationChanged .unfreeze frame l layout v w false false) l u
             else u
           | none => u
         let ended (q : Pane) (u : State) : State :=
           let r := s.view.ramps.get q;
           if r.running = true ∧ adopted.any (fun p => p.staged.viewMarks.get q) = false
               ∧ (t.view.views.get q).z = r.target
           then postFor (.rampDone q r.target r.tag frame) r.issuer u else u
         t.links = (ended .one (ended .zero (unfrozen .one (source .zero) (source .one)
           (unfrozen .zero (source .zero) (switchedSource .one) (switched .one (switchedSource .zero) (switchedSource .one)
             (switched .zero (switchedSource .zero) (adoptedSource .one) (applied s))))))).links))

/-- LATE_LINE (R77): a line of the output frame is replaced, the underrun count grows unless it is at 65,535, and the first
such line of the frame raises OUTPUT_UNDERRUN. Outside an output frame, and for a line replaced already, there is no such
step (log 3).
Errors of DRAM reads (R15, R107): a single-bit error raises DRAM_CORRECTED and changes no page; an uncorrectable read of a
ring buffer by the Compositor raises DRAM_UNCORRECTABLE with the buffer as detail once per fill; a buffer that no pane shows, or
that only held panes show, is not read (R56; that R75 does not set this aside is the model's choice, log 58), and there is no such
step (log 3). One of a slot shown by a pane or exported makes a HELD, SAVING or SAVED slot DAMAGED, with the fault at that moment only, and a SAVED slot keeps its
link. A PROGRAM job on the slot (R107, R134): a QUEUED or RUNNING one stays, and the RUNNING one ends when its page program in
flight has passed; a PAUSED one ends at once; either end releases the pin, leaves the entry STALE and posts SAVE_FAILED with the
reason DAMAGED. -/
def Obligations.LateLinesAndReadErrorsAreRaised : Prop :=
  (∀ line s,
     (s.comp.scanning = true → line < 1080 → line ∉ s.comp.lateLines → ∃ t, exec (.lateLine line) s = .next t
       ∧ t.comp = { s.comp with underruns := if s.comp.underruns < 65535 then s.comp.underruns + 1 else s.comp.underruns,
                                lateLines := s.comp.lateLines ++ [line] }
       ∧ (s.comp.lateLines ≠ [] → OnlyChanges [.comp] s t)
       ∧ (s.comp.lateLines = [] → t.faults = (raiseInternal .outputUnderrun .none s).faults
         ∧ t.links = (raiseInternal .outputUnderrun .none s).links ∧ OnlyChanges [.comp, .faults, .links] s t))
     ∧ (s.comp.scanning = false ∨ 1080 ≤ line ∨ line ∈ s.comp.lateLines → exec (.lateLine line) s = .next s))
  ∧ (∀ s,
       (∃ t, exec .dramCorrected s = .next t ∧ t = raiseInternal .dramCorrected .none s)
       ∧ (∀ b, (s.ring.buffers.get b).state = .complete →
         ((s.ring.buffers.get b).damaged = false → ∀ q, (s.comp.display.get q).page = .ring b →
           (s.comp.display.get q).shown = .picture →
           ∃ t, exec (.ringReadUncorrectable b) s = .next t
           ∧ t.ring = { s.ring with buffers := s.ring.buffers.set b { s.ring.buffers.get b with damaged := true } }
           ∧ t.faults = (raiseInternal .dramUncorrectable (.ring b) s).faults ∧ OnlyChanges [.ring, .faults, .links] s t)
         ∧ ((s.ring.buffers.get b).damaged = true → exec (.ringReadUncorrectable b) s = .next s))
       ∧ (∀ b, (∀ q, (s.comp.display.get q).page = .ring b → (s.comp.display.get q).shown ≠ .picture) →
         exec (.ringReadUncorrectable b) s = .next s))
  ∧ (∀ s n reader, ((reader = .compositor ∧ ∃ q, (s.comp.display.get q).page = .slot n)
         ∨ (reader = .exporter ∧ ∃ l x, (s.links.get l).exporting = some x ∧ x.slot = n)) →
       let slots (v : Slot) : PageStore := { s.store with slots := s.store.slots.set n v }
       let raised := raiseInternal .dramUncorrectable (.slot n) s
       let noPaused : Prop := ∀ j, Job.program j ∈ s.port.queue → j.slot = n → j.state ≠ .paused;
       (∀ v, (s.slot n).state = v → v = .held ∨ v = .saving ∨ v = .saved →
         let hurt : Slot := { s.slot n with state := .damaged, link := if v = .saved then (s.slot n).link else none }
         (noPaused → ∃ t, exec (.slotReadUncorrectable n reader) s = .next t
           ∧ GoesOn { s with store := slots hurt, faults := raised.faults, links := raised.links } t)
         ∧ (∀ before j after e seq, JobAt s.port before (.program j) after → j.slot = n → j.held = some (e, seq) →
           (s.entry e).state = .writing →
           let ended (command : Option FlashCommand) : State := { s with
             store := slots { hurt with pins := (s.slot n).pins - 1 }
             arch := entryIn s e .stale
             port := { s.port with queue := before ++ after, command }
             faults := raised.faults
             links := (postIssued (.saveFailed j.tag n j.lesson j.position .damaged) j.link raised).links }
           (j.state = .paused → ∃ t, exec (.slotReadUncorrectable n reader) s = .next t ∧ GoesOn (ended s.port.command) t)
           ∧ (∀ c, s.port.command = some c → c.kind = .pageProgram → j.state = .running → j.cancelled = false →
             ∃ t, exec (.slotReadUncorrectable n reader) s = .next t ∧ t.port = s.port
               ∧ ∃ u, exec (.pageProgramFinish .pass) t = .next u ∧ GoesOn { ended none with flash := u.flash } u)))
       ∧ ((s.slot n).state = .damaged → noPaused →
         ∃ t, exec (.slotReadUncorrectable n reader) s = .next t ∧ GoesOn s t))

/-- STAGE_LAYOUT, STAGE_PANE and DISCARD_STAGE (R62, R63, R64): the issuing link's staged set opens as a copy of the active
set with the snapshot's views and every mark clear, takes the item written and its mark, and DISCARD_STAGE closes it; the
active set, the pending apply and the other link's set stand.
APPLY (R65): an open staged set becomes the pending apply, whose place there is one of, and closes; the issuer of a
replaced apply gets SUPERSEDED with its tag. With the set closed it is refused NOTHING_STAGED.
That DISCARD_STAGE and APPLY take any payload (log 6) and that a pane above 1 is refused BAD_ARGUMENT with any length of the
values (log 8) are the model's choices. -/
def Obligations.StagedSetsAreWrittenAndApplied : Prop :=
  (∀ l tag s, canTake s l = true →
     let opened : StagedSet := (s.comp.staged.get l).getD
       { layout := s.comp.active.layout, sources := s.comp.active.sources,
         views := ⟨s.view.snapshot.panes.pane0.view, s.view.snapshot.panes.pane1.view⟩,
         layoutMark := false, sourceMarks := ⟨false, false⟩, viewMarks := ⟨false, false⟩ }
     let stages (c : Instr) (code : Byte) (r : Result) (bytes : List Byte) (g : Option StagedSet) : Prop :=
       ∃ t, exec c s = .next t ∧ Answers l tag code r bytes s t ∧ OnlyChanges [.comp, .links] s t
         ∧ t.comp = { s.comp with staged := s.comp.staged.set l g };
     stages (.stageLayout l tag [0#8]) 0x40#8 .ok [] (some { opened with layout := .single, layoutMark := true })
     ∧ stages (.stageLayout l tag [1#8]) 0x40#8 .ok [] (some { opened with layout := .split, layoutMark := true })
     ∧ (∀ v : Byte, 1 < v.toNat → RefusedWith .badArgument (.stageLayout l tag [v]) l tag 0x40#8 s)
     ∧ (∀ payload, stages (.discardStage l tag payload) 0x42#8 .ok [] none)
     ∧ (∀ (pane : Byte) (q : Pane), (q = .zero ∧ pane = 0#8) ∨ (q = .one ∧ pane = 1#8) →
       (∀ (kind number : Byte) (source : PaneSource),
         (source = .live ∧ kind = 0#8) ∨ (source = .freeze ∧ kind = 1#8) ∨ (source = .blank ∧ kind = 3#8)
           ∨ (∃ n : Fin 24, n ≠ 0 ∧ source = .slot n ∧ kind = 2#8 ∧ number.toNat = n) →
         stages (.stagePane l tag [pane, 1#8, kind, number]) 0x41#8 .ok (source.bytes ++ (opened.views.get q).bytes)
           (some { opened with sources := opened.sources.set q source, sourceMarks := opened.sourceMarks.set q true }))
       ∧ (∀ (z0 z1 x0 x1 y0 y1 rotation : Byte) (r : Rotation),
         (r = .deg0 ∧ rotation = 0#8) ∨ (r = .deg180 ∧ rotation = 1#8) →
         let z := z0.toNat + 256 * z1.toNat
         let whole : View := ⟨z, x0.toNat + 256 * x1.toNat, y0.toNat + 256 * y1.toNat, r⟩
         let zoomed : View := { opened.views.get q with z := z }
         let set (v : View) : Option StagedSet :=
           some { opened with views := opened.views.set q v, viewMarks := opened.viewMarks.set q true };
         stages (.stagePane l tag [pane, 0x1E#8, z0, z1, x0, x1, y0, y1, rotation]) 0x41#8
           (if clampWhole whole = whole then .ok else .clamped)
           ((opened.sources.get q).bytes ++ (clampWhole whole).bytes) (set (clampWhole whole))
         ∧ stages (.stagePane l tag [pane, 0x02#8, z0, z1]) 0x41#8
           (if clampWhole zoomed = zoomed then .ok else .clamped)
           ((opened.sources.get q).bytes ++ (clampWhole zoomed).bytes) (set (clampWhole zoomed)))
       ∧ (∀ rotation : Byte, 1 < rotation.toNat →
         RefusedWith .badArgument (.stagePane l tag [pane, 0x10#8, rotation]) l tag 0x41#8 s)
       ∧ (∀ kind number : Byte, 3 < kind.toNat ∨ (kind = 2#8 ∧ (number = 0#8 ∨ 23 < number.toNat)) →
         RefusedWith .badArgument (.stagePane l tag [pane, 1#8, kind, number]) l tag 0x41#8 s))
     ∧ (∀ pane presence values, 1 < (pane : Byte).toNat →
       RefusedWith .badArgument (.stagePane l tag (pane :: presence :: values)) l tag 0x41#8 s))
  ∧ (∀ l tag payload s, canTake s l = true →
       (∀ g, s.comp.staged.get l = some g → ∃ t, exec (.apply l tag payload) s = .next t
         ∧ t.comp = { s.comp with staged := s.comp.staged.set l none, pendingApply := some ⟨l, tag, g⟩ }
         ∧ (s.comp.pendingApply = none → Answers l tag 0x43#8 .accepted [] s t)
         ∧ (∀ old, s.comp.pendingApply = some old →
           t.links = (postTo (.superseded old.tag l) old.link (respond l tag 0x43#8 .accepted [] s)).links)
         ∧ OnlyChanges [.comp, .links] s t)
       ∧ (s.comp.staged.get l = none → RefusedWith .nothingStaged (.apply l tag payload) l tag 0x43#8 s))

/-- FREEZE and UNFREEZE (R68, R70, R99, R104): an accepted FREEZE queues a copy of the newest complete buffer into slot 0,
which becomes FILLING with its pin, pins the buffer, and makes the pane's record COPYING; an UNFREEZE sets the pane's mark, which holds the link
that issued it last (the model's choice, log 38), withdraws a record, and leaves slot 0 as it is. A pinned slot 0, a HALTED part, or a Page Mover that cannot take the request
refuse a FREEZE. -/
def Obligations.FreezeQueuesACopy : Prop :=
  ∀ l tag s (pane : Byte) (q : Pane), canTake s l = true → (q = .zero ∧ pane = 0#8) ∨ (q = .one ∧ pane = 1#8) →
    (∀ b, halted s = false → (s.slot 0).pins = 0 → s.mover.queue.length < 4 → s.ring.order.getLast? = some b →
      (∀ r ∈ s.mover.queue, ∀ c, r.source = .ring c → c = b) →
      ∃ t, exec (.freeze l tag [pane]) s = .next t
        ∧ t.slot 0 = { s.slot 0 with
            state := .filling, pins := 1, link := none,
            info := some ⟨.freeze, s.store.clock, s.cond.bufferProfile.get b, (s.view.snapshot.panes.get q).view⟩ }
        ∧ t.mover = ⟨s.mover.queue ++ [⟨.freeze, .ring b, 0, .command l tag⟩], true⟩
        ∧ t.ring = { s.ring with
            buffers := s.ring.buffers.set b { s.ring.buffers.get b with pins := (s.ring.buffers.get b).pins + 1 } }
        ∧ t.comp = { s.comp with freeze := s.comp.freeze.set q (.copying l tag),
                                 unfreeze := s.comp.unfreeze.set q none }
        ∧ ((∀ m g, s.comp.freeze.get q ≠ .ready m g) → Answers l tag 0x44#8 .accepted [] s t)
        ∧ (∀ n, n ≠ 0 → t.slot n = s.slot n)
        ∧ OnlyChanges [.store, .mover, .ring, .comp, .links, .freeCount] s t)
    ∧ (halted s = true → RefusedWith .halted (.freeze l tag [pane]) l tag 0x44#8 s)
    ∧ (halted s = false → 0 < (s.slot 0).pins → RefusedWith .slotInUse (.freeze l tag [pane]) l tag 0x44#8 s)
    ∧ (halted s = false → (s.slot 0).pins = 0 →
      4 ≤ s.mover.queue.length ∨ s.ring.order = []
        ∨ (∃ r ∈ s.mover.queue, ∃ c, r.source = .ring c ∧ s.ring.order.getLast? ≠ some c) →
      RefusedWith .moverBusy (.freeze l tag [pane]) l tag 0x44#8 s)
    ∧ (∃ t, exec (.unfreeze l tag [pane]) s = .next t
      ∧ t.comp = { s.comp with
          unfreeze := s.comp.unfreeze.set q (some l)
          freeze := s.comp.freeze.set q .none }
      ∧ (s.comp.freeze.get q = .none → Answers l tag 0x45#8 .ok [] s t ∧ t.freeCount = s.freeCount)
      ∧ OnlyChanges [.comp, .links, .freeCount] s t)
    ∧ (∀ other : Byte, 1 < other.toNat → RefusedWith .badArgument (.freeze l tag [other]) l tag 0x44#8 s
      ∧ RefusedWith .badArgument (.unfreeze l tag [other]) l tag 0x45#8 s)

/-! ## Guard Unit -/

/-- SET_LAMP and SET_LAMP_SENSE (R84, R82): the commanded state is stored and LAMP_EN formed afresh, high exactly while it is
ON and no ACTIVE override has FORCE_OFF; the threshold and the clamped debounce time are stored and the comparator's level
taken by R79. At the threshold exactly the level is free (log 18). Any other lamp value is refused BAD_ARGUMENT. The model's
choices: the byte 1 says ON, its reading of a flag of R182 (log 9), and a run that the new threshold starts loads the new
time (log 59). -/
def Obligations.LampCommandsAreStored : Prop :=
  ∀ l tag s, canTake s l = true →
    (∀ (v : Byte) (on : Bool), (on = false ∧ v = 0#8) ∨ (on = true ∧ v = 1#8) →
      ∃ t, exec (.setLamp l tag [v]) s = .next t ∧ t.guard = { s.guard with commanded := on, lampEn := t.guard.lampEn }
        ∧ (t.guard.lampEn = true ↔ on = true ∧ ∀ i, ¬ ((s.guard.overrides.get i).active = true
          ∧ (s.guard.overrides.get i).record.lampAction = .forceOff))
        ∧ Answers l tag 0x50#8 .ok [v, if t.guard.lampEn then 1#8 else 0#8] s t ∧ OnlyChanges [.guard, .links] s t)
    ∧ (∀ v : Byte, 1 < v.toNat → RefusedWith .badArgument (.setLamp l tag [v]) l tag 0x50#8 s)
    ∧ (∀ code time : Byte,
      let stored := if time.toNat < 1 then 1 else time.toNat;
      ∃ t, exec (.setLampSense l tag [code, time]) s = .next t
        ∧ t.guard = { s.guard with threshold := code.toNat, debounceTime := stored, lamp := t.guard.lamp }
        ∧ (∀ level, (level = true ∧ s.guard.lampPin * 255 > code.toNat * 1200000)
            ∨ (level = false ∧ s.guard.lampPin * 255 < code.toNat * 1200000) →
          t.guard.lamp = takeRaw stored level s.guard.lamp ∧ t.freeCount = s.freeCount)
        ∧ t.guard.lamp.debounced = s.guard.lamp.debounced
        ∧ Answers l tag 0x51#8 (if stored = time.toNat then .ok else .clamped)
            ([code, BitVec.ofNat 8 stored] ++ flag t.guard.lamp.raw ++ flag t.guard.lamp.debounced) s t
        ∧ OnlyChanges [.guard, .links, .freeCount] s t)

/-- The raw levels and the debounce runs (R79, R80, R81): a raw level that differs from the debounced one starts a run with
the input's debounce time, one that returns to it stops the run; when the run expires the debounced level takes the raw
level, and overrides on another source keep their state. While STARTING the pins are only noted (R92).
The overrides on ARM_FOLD follow its debounced level when the run expires (R86, R87, R88): an enabled IDLE one that
matches becomes ACTIVE with one activation more, a non-latching ACTIVE one that stops matching returns to IDLE, and no other
changes.
For every source, ARM_FOLD and LAMP_SENSE at the expiry of their runs, INTAKE_LOSS at the beginning and at the end of a loss
(R8, R83): the overrides on it follow the new level in number order, each by the same two rules, with OVERRIDE_ON and the fault
OVERRIDE_TRIGGERED for one that becomes ACTIVE and OVERRIDE_OFF with the cause SOURCE for one that returns to IDLE (R86, R87),
and the law of LAMP_EN is kept (R84). That the fault INTAKE_LOSS comes before the overrides is the model's order (log 37). -/
def Obligations.InputsAreDebouncedAndOverridesFollow : Prop :=
  (∀ s,
     let debounce (time : Nat) (level : Bool) (i j : DebouncedInput) : Prop :=
       j.raw = level ∧ j.debounced = i.debounced
         ∧ (level = i.raw → j.run = i.run)
         ∧ (level ≠ i.raw → level ≠ i.debounced → j.run = some time)
         ∧ (level ≠ i.raw → level = i.debounced → j.run = none);
     (∀ level, ∃ t, exec (.armFoldChange level) s = .next t
       ∧ t.guard = { s.guard with armPin := level, arm := t.guard.arm } ∧ OnlyChanges [.guard] s t
       ∧ (s.starting = false → debounce 20 level s.guard.arm t.guard.arm)
       ∧ (s.starting = true → t.guard.arm = s.guard.arm))
     ∧ (∀ microvolts, ∃ t, exec (.lampSenseChange microvolts) s = .next t
       ∧ t.guard = { s.guard with lampPin := microvolts, lamp := t.guard.lamp } ∧ OnlyChanges [.guard, .freeCount] s t
       ∧ (s.starting = false → ∀ level, (level = true ∧ microvolts * 255 > s.guard.threshold * 1200000)
           ∨ (level = false ∧ microvolts * 255 < s.guard.threshold * 1200000) →
         debounce s.guard.debounceTime level s.guard.lamp t.guard.lamp ∧ t.freeCount = s.freeCount)
       ∧ (s.starting = true → t.guard.lamp = s.guard.lamp))
     ∧ (s.guard.arm.run.isSome = true → ∃ t, exec (.debounceRunExpiry .armFold) s = .next t
       ∧ t.guard.arm = ⟨s.guard.arm.raw, s.guard.arm.raw, none⟩ ∧ t.guard.lamp = s.guard.lamp
       ∧ (∀ i, (s.guard.overrides.get i).record.source ≠ .armFold → t.guard.overrides.get i = s.guard.overrides.get i)
       ∧ OnlyChanges [.guard, .faults, .links] s t)
     ∧ (s.guard.lamp.run.isSome = true → ∃ t, exec (.debounceRunExpiry .lampSense) s = .next t
       ∧ t.guard.lamp = ⟨s.guard.lamp.raw, s.guard.lamp.raw, none⟩ ∧ t.guard.arm = s.guard.arm
       ∧ (∀ i, (s.guard.overrides.get i).record.source ≠ .lampSense → t.guard.overrides.get i = s.guard.overrides.get i)
       ∧ OnlyChanges [.guard, .faults, .links] s t))
  ∧ (∀ s t i, s.guard.arm.run.isSome = true → exec (.debounceRunExpiry .armFold) s = .next t →
       let o := s.guard.overrides.get i
       let u := t.guard.overrides.get i
       let fits := s.guard.arm.raw = o.record.matchValue
       let becomes := o.record.source = .armFold ∧ o.active = false ∧ o.record.enabled = true ∧ fits
       let ends := o.record.source = .armFold ∧ o.active = true ∧ o.record.latching = false ∧ ¬ fits;
       u.record = o.record
         ∧ (becomes → u.active = true ∧ u.count = if o.count < 65535 then o.count + 1 else o.count)
         ∧ (ends → u.active = false ∧ u.count = o.count)
         ∧ (¬ becomes → ¬ ends → u = o))
  ∧ (let follow (src : Source) (level : Bool) (i : Fin 3) (u : State) : State :=
       let o := u.guard.overrides.get i
       let put (v : Override) : State := { u with guard := { u.guard with overrides := u.guard.overrides.set i v } };
       if o.record.source ≠ src then u
       else if o.active = false ∧ o.record.enabled = true ∧ level = o.record.matchValue then
         raiseInternal .overrideTriggered (.override i) (postByMask
           (.overrideOn i src level o.record.paneAction o.record.mask o.record.lampAction u.comp.frameCounter)
           (put { o with active := true, count := if o.count < 65535 then o.count + 1 else o.count }))
       else if o.active = true ∧ o.record.latching = false ∧ level ≠ o.record.matchValue then
         postByMask (.overrideOff i .source level u.comp.frameCounter) (put { o with active := false })
       else u
     let followed (src : Source) (level : Bool) (u t : State) : Prop :=
       let v := follow src level 2 (follow src level 1 (follow src level 0 u));
       t.guard = { v.guard with lampEn := t.guard.lampEn } ∧ t.links = v.links ∧ t.faults = v.faults
         ∧ (LampLaw u → LampLaw t);
     ∀ s,
       (s.guard.arm.run.isSome = true → ∃ t, exec (.debounceRunExpiry .armFold) s = .next t
         ∧ followed .armFold s.guard.arm.raw
             { s with guard := { s.guard with arm := ⟨s.guard.arm.raw, s.guard.arm.raw, none⟩ } } t)
       ∧ (s.guard.lamp.run.isSome = true → ∃ t, exec (.debounceRunExpiry .lampSense) s = .next t
         ∧ followed .lampSense s.guard.lamp.raw
             { s with guard := { s.guard with lamp := ⟨s.guard.lamp.raw, s.guard.lamp.raw, none⟩ } } t)
       ∧ (s.intake.state = .between → s.intake.watch.isSome = true → s.intake.loss = false → s.guard.lossLevel = false →
         ∃ t, exec .intakeWatchExpiry s = .next t
           ∧ followed .intakeLoss true
               { raiseInternal .intakeLoss .none s with guard := { s.guard with lossLevel := true } } t)
       ∧ (∀ b (samples : List Byte), s.intake.state = .inFrame → s.intake.lineOpen = true → s.intake.target = some b →
         8192 ≤ samples.length → s.intake.lineCount = 3071 → s.intake.loss = true → s.guard.lossLevel = true →
         ∃ t, exec (.cameraLineEnd samples) s = .next t
           ∧ followed .intakeLoss false { s with guard := { s.guard with lossLevel := false } } t))

/-- WRITE_OVERRIDE and CLEAR_OVERRIDE (R89, R88): the whole record of an IDLE override is replaced, and it becomes ACTIVE at
once if it is enabled and its source matches; an ACTIVE override is refused OVERRIDE_ACTIVE. A clear returns an ACTIVE
override whose source does not match to IDLE with OVERRIDE_OFF, and changes nothing in the other cases. The events follow the
answer: OVERRIDE_ON by mask and OVERRIDE_TRIGGERED (R86), OVERRIDE_OFF with the cause CLEARED to the issuer and by mask (R165).
That the answer of STILL_MATCHING has a payload is read from the spec by inference (log 44). -/
def Obligations.OverridesAreWrittenAndCleared : Prop :=
  ∀ l tag s (number : Byte) (i : Fin 3), canTake s l = true → number.toNat = i →
    let o := s.guard.overrides.get i
    let rewrite (t : State) (v : Override) : Prop :=
      t.guard = { s.guard with overrides := s.guard.overrides.set i v, lampEn := t.guard.lampEn };
    (∀ f0 f1 f2 f3 f4 f5 f6 r, readOverrideRecord f0 f1 f2 f3 f4 f5 f6 = some r →
      let acts := r.enabled = true ∧ sourceLevel s.guard r.source = some r.matchValue
      let command := Instr.writeOverride l tag [number, f0, f1, f2, f3, f4, f5, f6];
      (o.active = false → acts → ∃ t, exec command s = .next t
        ∧ rewrite t ⟨r, true, if o.count < 65535 then o.count + 1 else o.count⟩
        ∧ (t.links.get l).responses[(s.links.get l).responses.length]?
            = some (.response tag 0x52#8 .ok (r.bytes ++ [1#8]))
        ∧ (let posted := postByMask (.overrideOn i r.source r.matchValue r.paneAction r.mask r.lampAction s.comp.frameCounter)
            (respond l tag 0x52#8 .ok (r.bytes ++ [1#8]) s)
          let raised := raiseInternal .overrideTriggered (.override i) posted;
          t.links = raised.links ∧ t.faults = raised.faults)
        ∧ OnlyChanges [.guard, .links, .faults] s t)
      ∧ (o.active = false → ¬ acts → ∃ t, exec command s = .next t ∧ rewrite t ⟨r, false, o.count⟩
        ∧ t.guard.lampEn = s.guard.lampEn ∧ Answers l tag 0x52#8 .ok (r.bytes ++ [0#8]) s t
        ∧ OnlyChanges [.guard, .links] s t)
      ∧ (o.active = true → RefusedWith .overrideActive command l tag 0x52#8 s))
    ∧ (∀ f0 f1 f2 f3 f4 f5 f6, readOverrideRecord f0 f1 f2 f3 f4 f5 f6 = none →
      RefusedWith .badArgument (.writeOverride l tag [number, f0, f1, f2, f3, f4, f5, f6]) l tag 0x52#8 s)
    ∧ (o.active = true → sourceLevel s.guard o.record.source ≠ some o.record.matchValue →
      ∃ t, exec (.clearOverride l tag [number]) s = .next t ∧ rewrite t { o with active := false }
        ∧ (o.record.lampAction ≠ .forceOff → t.guard.lampEn = s.guard.lampEn)
        ∧ (o.record.lampAction = .forceOff → t.guard.lampEn = lampLevel t.guard)
        ∧ (t.links.get l).responses[(s.links.get l).responses.length]?
            = some (.response tag 0x53#8 .ok (0#8 :: levelBytes s.guard o.record.source))
        ∧ (∀ level, sourceLevel s.guard o.record.source = some level →
          t.links = (postIssued (.overrideOff i .cleared level s.comp.frameCounter) l
            (respond l tag 0x53#8 .ok (0#8 :: levelBytes s.guard o.record.source) s)).links)
        ∧ OnlyChanges [.guard, .links] s t)
    ∧ (o.active = false → ∃ t, exec (.clearOverride l tag [number]) s = .next t
      ∧ Answers l tag 0x53#8 .ok (0#8 :: levelBytes s.guard o.record.source) s t ∧ OnlyChanges [.links] s t)
    ∧ (o.active = true → sourceLevel s.guard o.record.source = some o.record.matchValue →
      ∃ t, exec (.clearOverride l tag [number]) s = .next t
        ∧ Answers l tag 0x53#8 .stillMatching (1#8 :: levelBytes s.guard o.record.source) s t ∧ OnlyChanges [.links] s t)
    ∧ (∀ other f0 f1 f2 f3 f4 f5 f6 : Byte, 2 < other.toNat →
      RefusedWith .badArgument (.writeOverride l tag [other, f0, f1, f2, f3, f4, f5, f6]) l tag 0x52#8 s
      ∧ RefusedWith .badArgument (.clearOverride l tag [other]) l tag 0x53#8 s)

/-! ## Page Store and Page Mover -/

/-- SET_CLOCK and the second tick (R97, R114): the clock takes the value or one more, wrapping to 0; a tick takes one from a
running interval channel's remaining count; neither touches anything else. While STARTING there is no tick.
SET_INTERVAL and STOP_INTERVAL (R114): the channel runs with the clamped period as its remaining count and the issuing
link as its owner, or stops with INTERVAL_STOPPED; a mode outside its values is refused BAD_ARGUMENT.
That STOP_INTERVAL takes any payload (log 6) and that a tick does not expire the channel itself, its count staying at 0 until
the expiry (log 47), are the model's choices. -/
def Obligations.TheClockCountsAndTheIntervalIsSet : Prop :=
  (∀ s,
     (∀ l tag b0 b1 b2 b3, canTake s l = true → ∃ t, exec (.setClock l tag [b0, b1, b2, b3]) s = .next t
       ∧ t.store = { s.store with
           clock := b0.toNat + 256 * b1.toNat + 65536 * b2.toNat + 16777216 * b3.toNat }
       ∧ Answers l tag 0x60#8 .ok [b0, b1, b2, b3] s t ∧ OnlyChanges [.store, .links] s t)
     ∧ (s.starting = false → ∃ t, exec .lessonClockTick s = .next t
       ∧ t.store = { s.store with
           clock := if s.store.clock + 1 < 4294967296 then s.store.clock + 1 else 0
           interval := if s.store.interval.running = true
             then { s.store.interval with remaining := s.store.interval.remaining - 1 } else s.store.interval }
       ∧ OnlyChanges [.store] s t)
     ∧ (s.starting = true → exec .lessonClockTick s = .next s))
  ∧ (∀ l tag s, canTake s l = true →
       (∀ (p0 p1 mode : Byte) (m : IntervalMode), (m = .repeating ∧ mode = 0#8) ∨ (m = .once ∧ mode = 1#8) →
         let n := p0.toNat + 256 * p1.toNat
         let period := if n < 1 then 1 else if 3600 < n then 3600 else n;
         ∃ t, exec (.setInterval l tag [p0, p1, mode]) s = .next t
           ∧ t.store = { s.store with interval := ⟨true, period, m, period, some l⟩ }
           ∧ Answers l tag 0x6A#8 (if period = n then .ok else .clamped) [] s t ∧ OnlyChanges [.store, .links] s t)
       ∧ (∀ p0 p1 mode : Byte, 1 < mode.toNat → RefusedWith .badArgument (.setInterval l tag [p0, p1, mode]) l tag 0x6A#8 s)
       ∧ (∀ payload, s.store.interval.running = true → ∃ t, exec (.stopInterval l tag payload) s = .next t
         ∧ t.store = { s.store with interval := { s.store.interval with running := false } }
         ∧ t.links = (postIssued (.intervalStopped .command) l (respond l tag 0x6B#8 .ok [] s)).links
         ∧ OnlyChanges [.store, .links] s t)
       ∧ (∀ payload, s.store.interval.running = false → ∃ t, exec (.stopInterval l tag payload) s = .next t
         ∧ Answers l tag 0x6B#8 .ok [] s t ∧ OnlyChanges [.links] s t))

/-- The commands that edit the lesson list (R111, R112, R113): what the list becomes, with positions clamped as each rule
gives, and the refusals in their order. Slots, and everything else of the Page Store, stand.
DELETE_SLOT (R105, R106): an unpinned slot with content becomes EMPTY without fields or link and leaves the lesson list,
whose other entries keep their order; the refusals in their order. That LESSON_CLEAR takes any payload is the model's choice
(log 6). -/
def Obligations.LessonListAndSlotsAreEdited : Prop :=
  (∀ l tag s, canTake s l = true →
     let list := s.store.lesson
     let edits (c : Instr) (code : Byte) (r : Result) (bytes : List Byte) (after : List (Fin 24)) : Prop :=
       ∃ t, exec c s = .next t ∧ t.store = { s.store with lesson := after } ∧ Answers l tag code r bytes s t
         ∧ OnlyChanges [.store, .links] s t;
     (∀ (number position : Byte) (n : Fin 24), n ≠ 0 → number.toNat = n →
       let c := Instr.lessonInsert l tag [number, position]
       let i := min position.toNat list.length;
       ((s.slot n).state ≠ .empty → list.length < 23 → n ∉ list →
         edits c 0x66#8 (if i = position.toNat then .ok else .clamped) [BitVec.ofNat 8 i, BitVec.ofNat 8 (list.length + 1)]
           (list.insertIdx i n))
       ∧ ((s.slot n).state = .empty → RefusedWith .slotEmpty c l tag 0x66#8 s)
       ∧ ((s.slot n).state ≠ .empty → 23 ≤ list.length → RefusedWith .lessonFull c l tag 0x66#8 s)
       ∧ ((s.slot n).state ≠ .empty → list.length < 23 → n ∈ list → RefusedWith .alreadyInLesson c l tag 0x66#8 s))
     ∧ (∀ number position : Byte, number = 0#8 ∨ 23 < number.toNat →
       RefusedWith .badArgument (.lessonInsert l tag [number, position]) l tag 0x66#8 s)
     ∧ (∀ position : Byte,
       (∀ n, list[position.toNat]? = some n →
         edits (.lessonRemove l tag [position]) 0x67#8 .ok [BitVec.ofNat 8 n] (list.eraseIdx position.toNat))
       ∧ (list.length ≤ position.toNat → RefusedWith .notFound (.lessonRemove l tag [position]) l tag 0x67#8 s))
     ∧ (∀ origin target : Byte,
       (∀ n, list[origin.toNat]? = some n →
         let i := min target.toNat (list.length - 1);
         edits (.lessonMove l tag [origin, target]) 0x68#8 (if i = target.toNat then .ok else .clamped) [BitVec.ofNat 8 i]
           ((list.eraseIdx origin.toNat).insertIdx i n))
       ∧ (list.length ≤ origin.toNat → RefusedWith .notFound (.lessonMove l tag [origin, target]) l tag 0x68#8 s))
     ∧ (∀ payload, payload.length ≠ 1 → RefusedWith .badLength (.lessonRemove l tag payload) l tag 0x67#8 s)
     ∧ (∀ payload, payload.length ≠ 2 → RefusedWith .badLength (.lessonMove l tag payload) l tag 0x68#8 s)
     ∧ (∀ payload, edits (.lessonClear l tag payload) 0x69#8 .ok [BitVec.ofNat 8 list.length] []))
  ∧ (∀ l tag s (number : Byte), canTake s l = true →
       let c := Instr.deleteSlot l tag [number];
       (∀ n : Fin 24, number.toNat = n →
         (halted s = true → RefusedWith .halted c l tag 0x62#8 s)
         ∧ (halted s = false → (s.slot n).state = .empty → RefusedWith .slotEmpty c l tag 0x62#8 s)
         ∧ (halted s = false → (s.slot n).state = .filling → RefusedWith .slotBusy c l tag 0x62#8 s)
         ∧ (halted s = false → (s.slot n).state ≠ .empty → (s.slot n).state ≠ .filling → 0 < (s.slot n).pins →
           RefusedWith .slotInUse c l tag 0x62#8 s)
         ∧ (halted s = false → (s.slot n).state ≠ .empty → (s.slot n).state ≠ .filling → (s.slot n).pins = 0 →
           ∃ t, exec c s = .next t ∧ Answers l tag 0x62#8 .ok [] s t ∧ OnlyChanges [.store, .links] s t
             ∧ t.store = { s.store with
                 slots := s.store.slots.set n { s.slot n with state := .empty, info := none, link := none }
                 lesson := s.store.lesson.filter fun m => decide (m ≠ n) }))
       ∧ (23 < number.toNat → RefusedWith .badArgument c l tag 0x62#8 s))

/-- CAPTURE (R102, R103, R99), from LIVE or FREEZE into a named lesson slot or ANY: the checks in their order; an accepted one
makes the target FILLING with pin count one more and its record, queues the request with its source pinned, and with the
append flag puts the slot at the end of the lesson list. A LIVE source is the newest complete buffer; FREEZE is slot 0, whose
time and profile number the record takes. ANY takes the lowest EMPTY lesson slot.
INTERVAL_EXPIRY (R114, R115): REPEAT reloads the count, ONCE stops the channel first; the expiry captures the newest
complete buffer into the lowest EMPTY lesson slot and appends it, or posts CAPTURE_SKIPPED with the first reason that holds
and changes no slot or list. A channel that is stopped or has counts left does not expire.
The append byte 1 as yes (log 9), the expiry as a row of its own (log 47), and a row that cannot happen leaving the state as
it is (log 3) are the model's choices. -/
def Obligations.CapturesQueueTheirCopies : Prop :=
  (∀ l tag s (source target append pane : Byte) (live add : Bool) (view : View), canTake s l = true →
     (live = true ∧ source = 0#8) ∨ (live = false ∧ source = 1#8) → (add = false ∧ append = 0#8) ∨ (add = true ∧ append = 1#8) →
     (pane = 0#8 ∧ view = s.view.snapshot.panes.pane0.view) ∨ (pane = 1#8 ∧ view = s.view.snapshot.panes.pane1.view)
       ∨ (pane = 0xFF#8 ∧ view = ⟨64, 2048, 1536, .deg0⟩) →
     let c := Instr.capture l tag [source, target, append, pane]
     let lessonTarget := target = 0xFF#8 ∨ (0 < target.toNat ∧ target.toNat < 24)
     let takes (n : Fin 24) : Prop := n ≠ 0 ∧ (s.slot n).state = .empty
       ∧ (target.toNat = n ∨ (target = 0xFF#8 ∧ ∀ m, m ≠ 0 → m < n → (s.slot m).state ≠ .empty))
     let frozen := (s.slot 0).state = .held ∨ (s.slot 0).state = .damaged
     let ready := halted s = false ∧ (live = false → frozen)
     let room := add = true → s.store.lesson.length < 23
     let filled (n : Fin 24) (time : Nat) (profile : Fin 4) : Slot := { s.slot n with
       state := .filling, link := none, pins := (s.slot n).pins + 1, info := some ⟨.capture, time, profile, view⟩ }
     let list (n : Fin 24) : List (Fin 24) := if add then s.store.lesson ++ [n] else s.store.lesson;
     (lessonTarget → halted s = true → RefusedWith .halted c l tag 0x61#8 s)
     ∧ (lessonTarget → halted s = false → live = false → (s.slot 0).state = .empty ∨ (s.slot 0).state = .filling →
       RefusedWith .slotEmpty c l tag 0x61#8 s)
     ∧ (lessonTarget → ready → add = true → 23 ≤ s.store.lesson.length → RefusedWith .lessonFull c l tag 0x61#8 s)
     ∧ (ready → room → target = 0xFF#8 → (∀ n, n ≠ 0 → (s.slot n).state ≠ .empty) →
       RefusedWith .noFreeSlot c l tag 0x61#8 s)
     ∧ (ready → room → ∀ n : Fin 24, n ≠ 0 → target.toNat = n → (s.slot n).state ≠ .empty →
       RefusedWith .slotOccupied c l tag 0x61#8 s)
     ∧ (ready → room → ∀ n, takes n → 4 ≤ s.mover.queue.length ∨ (live = true ∧ (s.ring.order = []
         ∨ (∃ r ∈ s.mover.queue, ∃ b, r.source = .ring b ∧ s.ring.order.getLast? ≠ some b))) →
       RefusedWith .moverBusy c l tag 0x61#8 s)
     ∧ (ready → room → ∀ n b, takes n → live = true → s.mover.queue.length < 4 → s.ring.order.getLast? = some b →
       (∀ r ∈ s.mover.queue, ∀ d, r.source = .ring d → d = b) →
       ∃ t, exec c s = .next t
         ∧ t.store = { s.store with
             slots := s.store.slots.set n (filled n s.store.clock (s.cond.bufferProfile.get b)), lesson := list n }
         ∧ t.mover = ⟨s.mover.queue ++ [⟨.capture, .ring b, n, .command l tag⟩], true⟩
         ∧ t.ring = { s.ring with
             buffers := s.ring.buffers.set b { s.ring.buffers.get b with pins := (s.ring.buffers.get b).pins + 1 } }
         ∧ Answers l tag 0x61#8 .accepted [BitVec.ofNat 8 n] s t ∧ OnlyChanges [.store, .mover, .ring, .links] s t)
     ∧ (ready → room → ∀ n page, takes n → live = false → s.mover.queue.length < 4 → (s.slot 0).info = some page →
       ∃ t, exec c s = .next t
         ∧ t.store = { s.store with
             slots := (s.store.slots.set 0 { s.slot 0 with pins := (s.slot 0).pins + 1 }).set n
               (filled n page.time page.profile)
             lesson := list n }
         ∧ t.mover = ⟨s.mover.queue ++ [⟨.capture, .slot0, n, .command l tag⟩], true⟩
         ∧ Answers l tag 0x61#8 .accepted [BitVec.ofNat 8 n] s t ∧ OnlyChanges [.store, .mover, .links] s t))
  ∧ (∀ l tag s (source target append pane : Byte), canTake s l = true →
       1 < source.toNat ∨ target = 0#8 ∨ (23 < target.toNat ∧ target ≠ 0xFF#8) ∨ 1 < append.toNat
         ∨ (1 < pane.toNat ∧ pane ≠ 0xFF#8) →
       RefusedWith .badArgument (.capture l tag [source, target, append, pane]) l tag 0x61#8 s)
  ∧ (∀ s,
       let c := s.store.interval
       let overridden := ∃ i, (s.guard.overrides.get i).active = true ∧ (s.guard.overrides.get i).record.paneAction ≠ .none
       let vacant (n : Fin 24) : Prop := n ≠ 0 ∧ (s.slot n).state = .empty
       let declined := 4 ≤ s.mover.queue.length ∨ s.ring.order = []
         ∨ (∃ r ∈ s.mover.queue, ∃ b, r.source = .ring b ∧ s.ring.order.getLast? ≠ some b)
       let reloaded : Interval := match c.mode with
         | .once => { c with running := false }
         | .repeating => { c with remaining := c.period }
       let first : State := match c.mode with
         | .once => postFor (.intervalStopped .once) c.owner s
         | .repeating => s
       let skips (reason : SkipReason) : Prop :=
         ∃ t, exec .intervalExpiry s = .next t ∧ t.store = { s.store with interval := reloaded }
           ∧ t.links = (postFor (.captureSkipped reason s.store.clock c.mode) c.owner first).links
           ∧ OnlyChanges [.store, .links] s t;
       (c.running = true → c.remaining = 0 →
         (halted s = true → skips .halted)
         ∧ (halted s = false → overridden → skips .override)
         ∧ (halted s = false → ¬ overridden →
           (23 ≤ s.store.lesson.length → skips .lessonFull)
           ∧ (s.store.lesson.length < 23 →
             ((∀ n, ¬ vacant n) → skips .noSlot)
             ∧ ((∃ n, vacant n) → declined → skips .moverBusy)
             ∧ (∀ n b, vacant n → (∀ m, m < n → ¬ vacant m) → ¬ declined → s.ring.order.getLast? = some b →
               ∃ t, exec .intervalExpiry s = .next t
                 ∧ t.store = { s.store with
                     interval := reloaded
                     slots := s.store.slots.set n { s.slot n with
                       state := .filling, link := none, pins := (s.slot n).pins + 1,
                       info := some ⟨.capture, s.store.clock, s.cond.bufferProfile.get b,
                         s.view.snapshot.panes.pane0.view⟩ }
                     lesson := s.store.lesson ++ [n] }
                 ∧ t.mover = ⟨s.mover.queue ++ [⟨.capture, .ring b, n, .interval⟩], true⟩
                 ∧ t.links = first.links ∧ OnlyChanges [.store, .mover, .ring, .links] s t))))
       ∧ (c.running = false ∨ c.remaining ≠ 0 → exec .intervalExpiry s = .next s))

/-- COPY_COMPLETE (R100) of a capture from a ring buffer or from slot 0: the target becomes HELD with the source's page, both
pins are released, the request leaves the queue, CAPTURE_DONE with the outcome DONE is posted, and the next request is started
unless the part is HALTED. COPY_FAILED (R101): the target becomes EMPTY and leaves the lesson list, and CAPTURE_DONE has the
outcome FAILED; DRAM_UNCORRECTABLE is raised with the buffer as detail, or a HELD slot 0 becomes DAMAGED and raises it with
slot 0, or a DAMAGED slot 0 raises nothing. A copy of the interval channel posts CAPTURE_DONE with tag 0 and the cause
INTERVAL (R115), to the channel's owner at that moment (log 39). With no copy running there is no such step (log 3).
A freeze copy's end (R69, R100, R101): its success makes every COPYING record READY and slot 0 HELD; its failure makes slot 0
EMPTY, raises DRAM_UNCORRECTABLE with the buffer as detail, and makes every COPYING record NONE with FROZEN FAILED of output
frame number 0 to its issuer. The other records stand. Both release the pins of the buffer and of slot 0, and the next request
is started unless the part is HALTED.
The model's choices: a copy carries the content as it was written, also from a DAMAGED slot 0 or a damaged buffer, where hardware
may copy other bytes (log 23), and of two panes pane 0's FROZEN goes first (log 37). -/
def Obligations.CopiesEnd : Prop :=
  (∀ s,
     (∀ source n cause rest, s.mover.running = true → s.mover.queue = ⟨.capture, source, n, cause⟩ :: rest →
       let posts (done : Bool) (u : State) : State := match cause with
         | .command l tag => postIssued (.captureDone tag n done false) l u
         | .interval => postFor (.captureDone 0#8 n done true) s.store.interval.owner u
       let emptied : Slot := { s.slot n with state := .empty, info := none, link := none, pins := (s.slot n).pins - 1 }
       let list := s.store.lesson.filter fun m => decide (m ≠ n);
       (∀ b, source = .ring b →
         let released : Ring := { s.ring with
           buffers := s.ring.buffers.set b { s.ring.buffers.get b with pins := (s.ring.buffers.get b).pins - 1 } };
         (∃ t, exec .copyComplete s = .next t
           ∧ t.store = { s.store with slots := s.store.slots.set n { s.slot n with
               state := .held, pins := (s.slot n).pins - 1, content := (s.ring.buffers.get b).content } }
           ∧ t.ring = released ∧ t.mover = ⟨rest, decide (rest ≠ []) && !halted s⟩
           ∧ t.links = (posts true s).links ∧ OnlyChanges [.store, .ring, .mover, .links] s t)
         ∧ (∃ t, exec .copyFailed s = .next t
           ∧ t.store = { s.store with slots := s.store.slots.set n emptied, lesson := list }
           ∧ t.ring = released ∧ t.mover = ⟨rest, decide (rest ≠ []) && !halted t⟩
           ∧ (let raised := raiseInternal .dramUncorrectable (.ring b) s;
             t.faults = raised.faults ∧ t.links = (posts false raised).links)
           ∧ OnlyChanges [.store, .ring, .mover, .faults, .links] s t))
       ∧ (source = .slot0 → n ≠ 0 →
         let unpinned : Slot := { s.slot 0 with pins := (s.slot 0).pins - 1 };
         (∃ t, exec .copyComplete s = .next t
           ∧ t.slot n = { s.slot n with state := .held, pins := (s.slot n).pins - 1, content := (s.slot 0).content }
           ∧ t.slot 0 = unpinned ∧ (∀ m, m ≠ n → m ≠ 0 → t.slot m = s.slot m) ∧ t.store = { s.store with slots := t.store.slots }
           ∧ t.mover = ⟨rest, decide (rest ≠ []) && !halted s⟩
           ∧ t.links = (posts true s).links ∧ OnlyChanges [.store, .mover, .links] s t)
         ∧ (∃ t, exec .copyFailed s = .next t
           ∧ t.slot n = emptied ∧ (∀ m, m ≠ n → m ≠ 0 → t.slot m = s.slot m)
           ∧ t.store = { s.store with slots := t.store.slots, lesson := list }
           ∧ t.mover = ⟨rest, decide (rest ≠ []) && !halted t⟩
           ∧ ((s.slot 0).state = .held → t.slot 0 = { unpinned with state := .damaged, link := none }
             ∧ (let raised := raiseInternal .dramUncorrectable (.slot 0) s;
               t.faults = raised.faults ∧ t.links = (posts false raised).links))
           ∧ ((s.slot 0).state = .damaged → t.slot 0 = unpinned ∧ t.faults = s.faults ∧ t.links = (posts false s).links)
           ∧ OnlyChanges [.store, .mover, .faults, .links] s t)))
     ∧ (s.mover.running = false → exec .copyComplete s = .next s ∧ exec .copyFailed s = .next s))
  ∧ (∀ s b cause rest, s.mover.running = true → s.mover.queue = ⟨.freeze, .ring b, 0, cause⟩ :: rest →
       (∃ t, exec .copyComplete s = .next t ∧ (t.slot 0).state = .held
         ∧ (t.slot 0).content = (s.ring.buffers.get b).content
         ∧ (∀ q, (∀ l g, s.comp.freeze.get q = .copying l g → t.comp.freeze.get q = .ready l g)
           ∧ ((∀ l g, s.comp.freeze.get q ≠ .copying l g) → t.comp.freeze.get q = s.comp.freeze.get q))
         ∧ t.comp = { s.comp with freeze := t.comp.freeze }
         ∧ t.store = { s.store with slots := s.store.slots.set 0 { s.slot 0 with
             state := .held, pins := (s.slot 0).pins - 1, content := (s.ring.buffers.get b).content } }
         ∧ t.ring = { s.ring with
             buffers := s.ring.buffers.set b { s.ring.buffers.get b with pins := (s.ring.buffers.get b).pins - 1 } }
         ∧ t.mover = ⟨rest, decide (rest ≠ []) && !halted s⟩ ∧ OnlyChanges [.store, .ring, .mover, .comp] s t)
       ∧ (∃ t, exec .copyFailed s = .next t ∧ (t.slot 0).state = .empty ∧ (t.slot 0).info = none
         ∧ (∀ q, ((∃ l g, s.comp.freeze.get q = .copying l g) → t.comp.freeze.get q = .none)
           ∧ ((∀ l g, s.comp.freeze.get q ≠ .copying l g) → t.comp.freeze.get q = s.comp.freeze.get q))
         ∧ t.comp = { s.comp with freeze := t.comp.freeze }
         ∧ t.store = { s.store with
             slots := s.store.slots.set 0
               { s.slot 0 with state := .empty, info := none, link := none, pins := (s.slot 0).pins - 1 }
             lesson := s.store.lesson.filter fun m => decide (m ≠ 0) }
         ∧ t.ring = { s.ring with
             buffers := s.ring.buffers.set b { s.ring.buffers.get b with pins := (s.ring.buffers.get b).pins - 1 } }
         ∧ t.mover = ⟨rest, decide (rest ≠ []) && !halted t⟩
         ∧ (let raised := raiseInternal .dramUncorrectable (.ring b) s
           let told (q : Pane) (u : State) : State := match s.comp.freeze.get q with
             | .copying l g => postTo (.frozen q .failed 0 g) l u
             | .none | .ready _ _ => u;
           t.faults = raised.faults ∧ t.links = (told .one (told .zero raised)).links)
         ∧ OnlyChanges [.store, .ring, .mover, .comp, .faults, .links] s t))

/-! ## Lesson Archive -/

/-- Why SAVE_LESSON, RECALL, RECALL_LESSON and DELETE_ARCHIVED are refused before they look at the directory: HALTED first,
then MOUNTING, then FLASH_OFFLINE (R129, R136, R138, R139); a lesson of 0 or an extent above 224 is BAD_ARGUMENT before
these. CANCEL_SAVE makes the last two checks (R135), REMOUNT, with any payload (the model's choice, log 6), the second and the
job queue's (R128). -/
def Obligations.ArchiveCommandsAreRefusedInOrder : Prop :=
  ∀ l tag s (lesson position e0 e1 b0 b1 b2 b3 slot : Byte) payload, canTake s l = true →
    let held (r : Result) : Prop :=
      (lesson ≠ 0#8 → RefusedWith r (.saveLesson l tag [lesson]) l tag 0x70#8 s
        ∧ RefusedWith r (.recall l tag [0#8, lesson, position]) l tag 0x72#8 s
        ∧ RefusedWith r (.recallLesson l tag [lesson]) l tag 0x73#8 s)
      ∧ RefusedWith r (.recall l tag [1#8, b0, b1, b2, b3]) l tag 0x72#8 s
      ∧ (e0.toNat + 256 * e1.toNat < 225 → RefusedWith r (.deleteArchived l tag [e0, e1, b0, b1, b2, b3]) l tag 0x74#8 s)
    let cancel (r : Result) : Prop :=
      0 < slot.toNat → slot.toNat < 24 → RefusedWith r (.cancelSave l tag [slot]) l tag 0x71#8 s;
    (halted s = true → held .halted)
    ∧ (halted s = false → s.arch.mount = .mounting → held .mounting)
    ∧ (halted s = false → s.arch.mount ≠ .mounting → s.port.offline = true → held .flashOffline)
    ∧ (s.arch.mount = .mounting → cancel .mounting ∧ RefusedWith .mounting (.remount l tag payload) l tag 0x75#8 s)
    ∧ (s.arch.mount ≠ .mounting → s.port.offline = true → cancel .flashOffline)
    ∧ (s.arch.mount ≠ .mounting → s.port.queue ≠ [] → RefusedWith .jobsPending (.remount l tag payload) l tag 0x75#8 s)
    ∧ RefusedWith .badArgument (.saveLesson l tag [0#8]) l tag 0x70#8 s
    ∧ RefusedWith .badArgument (.recall l tag [0#8, 0#8, position]) l tag 0x72#8 s
    ∧ RefusedWith .badArgument (.recallLesson l tag [0#8]) l tag 0x73#8 s
    ∧ (slot = 0#8 ∨ 23 < slot.toNat → RefusedWith .badArgument (.cancelSave l tag [slot]) l tag 0x71#8 s)
    ∧ (225 ≤ e0.toNat + 256 * e1.toNat →
      RefusedWith .badArgument (.deleteArchived l tag [e0, e1, b0, b1, b2, b3]) l tag 0x74#8 s)

/-- SAVE_LESSON (R129): the VALID entries of the lesson beyond the list become STALE with a WITHDRAW job each, and the slots
linking them HELD; then R129's table decides each position by its slot (HELD or SAVED, with a PROGRAM job or without, linked to
an entry of the lesson at the position or not; SAVING; FILLING or DAMAGED; an EMPTY slot, which no run has in the list, is
skipped), and each position counted as programmed gets a PROGRAM job, in position order, its HELD slot becomes SAVING and every
such slot one pin more. An empty list withdraws the whole lesson. Too few places or FREE entries,
or no sequence number, refuse it. That the WITHDRAW jobs stand by rising extent is the model's choice (log 57).
CANCEL_SAVE (R135, R134): a QUEUED job leaves the queue at once, and a PAUSED one too, its entry STALE; SAVE_FAILED is posted,
the pin released and a SAVING slot HELD; a RUNNING job is marked to end with its command; a slot without a PROGRAM job is
NOT_FOUND.
What the port does next is GoesOn: with a command in flight nothing, and at an idle port the first job starts (R146; one that
finds no FREE entry takes no sequence number, the model's choice, log 52). -/
def Obligations.SavesAreQueuedAndCancelled : Prop :=
  (∀ l tag s (lesson : Byte), canTake s l = true → lesson ≠ 0#8 → halted s = false → s.arch.mount ≠ .mounting →
     s.port.offline = false → s.port.queue.length ≤ 48 →
     let number := lesson.toNat
     let list := s.store.lesson
     let command := Instr.saveLesson l tag [lesson]
     let tail := (List.finRange 225).filter fun e => decide ((s.entry e).state = .valid)
       && (s.entry e).header.any fun h => decide (h.lesson = number ∧ list.length ≤ h.position)
     let seen : State := { s with
       arch := { s.arch with entries := Table.tabulate 225 fun e =>
         { s.entry e with state := if e ∈ tail then .stale else (s.entry e).state } }
       store := { s.store with slots := s.store.slots.map (withoutLinks tail) } }
     let hasJob (n : Fin 24) : Bool := s.port.queue.any fun j => match j with
       | .program p => decide (p.slot = n)
       | .read _ | .withdraw _ _ | .retire _ _ => false
     let linked (n : Fin 24) (position : Nat) : Bool := (seen.slot n).link.any fun k =>
       (s.entry k.extent).header.any fun h => decide (h.lesson = number ∧ h.position = position)
     let action (n : Fin 24) (position : Nat) : SaveAction := match (seen.slot n).state with
       | .held => if hasJob n then .busy else .programmed
       | .saved => if linked n position then .unchanged else if hasJob n then .busy else .programmed
       | .saving => .busy
       | .filling | .damaged | .empty => .skipped
     let counted (a : SaveAction) : List (Fin 24 × Nat) := list.zipIdx.filter fun p => decide (action p.1 p.2 = a)
     let todo := counted .programmed
     let pinned (n : Fin 24) : Slot := { seen.slot n with
       state := if (seen.slot n).state = .held ∧ todo.any (fun p => decide (p.1 = n)) then .saving else (seen.slot n).state
       pins := (seen.slot n).pins + todo.countP (fun p => decide (p.1 = n)) }
     let jobs : List Job := (tail.map fun e => .withdraw e false)
       ++ todo.map fun p => .program ⟨p.1, number, p.2, l, tag, .queued, 0, none, 0, false, false⟩
     let answer : List Byte := [BitVec.ofNat 8 todo.length, BitVec.ofNat 8 (counted .unchanged).length,
       BitVec.ofNat 8 (counted .busy).length, BitVec.ofNat 8 (counted .skipped).length, BitVec.ofNat 8 tail.length];
     (48 < s.port.queue.length + jobs.length → RefusedWith .queueFull command l tag 0x70#8 s)
     ∧ (s.port.queue.length + jobs.length ≤ 48 →
       (stateCount s .free < todo.length ∨ (4294967295 ≤ s.arch.highest ∧ todo ≠ []) →
         RefusedWith .archiveFull command l tag 0x70#8 s)
       ∧ (todo.length ≤ stateCount s .free → s.arch.highest < 4294967295 ∨ todo = [] →
         ∃ t, exec command s = .next t ∧ GoesOn { seen with
           store := { seen.store with slots := Table.tabulate 24 pinned }
           port := { s.port with queue := s.port.queue ++ jobs }
           links := (respond l tag 0x70#8 .accepted answer s).links } t)))
  ∧ (∀ l tag s (number : Byte) (n : Fin 24), canTake s l = true → n ≠ 0 → number.toNat = n → s.arch.mount ≠ .mounting →
       s.port.offline = false →
       let c := Instr.cancelSave l tag [number]
       let answered := respond l tag 0x71#8 .ok [] s;
       ((∀ j, Job.program j ∈ s.port.queue → j.slot ≠ n) → RefusedWith .notFound c l tag 0x71#8 s)
       ∧ (∀ before j after, JobAt s.port before (.program j) after → j.slot = n →
         let left : State := { s with
           port := { s.port with queue := before ++ after }
           store := { s.store with slots := s.store.slots.set n (leftSlot (s.slot n)) }
           links := (postIssued (.saveFailed j.tag n j.lesson j.position .cancelled) j.link answered).links };
         (j.state = .queued → ∃ t, exec c s = .next t ∧ GoesOn left t)
         ∧ (∀ e seq, j.state = .paused → j.held = some (e, seq) → (s.entry e).state = .writing →
           ∃ t, exec c s = .next t ∧ GoesOn { left with arch := entryIn s e .stale } t)
         ∧ (j.state = .running → ∃ t, exec c s = .next t ∧ GoesOn { s with
           port := { s.port with queue := before ++ .program { j with cancelled := true } :: after }
           links := answered.links } t)))

/-- RECALL (R136, R184): the VALID entry named by lesson and position, or by sequence number, is recalled into the lowest EMPTY
lesson slot, which becomes FILLING with the entry's fields and its view clamped; the reader count grows and a READ job joins
the queue. An entry that a slot holds already is ALREADY_PRESENT with that slot; the refusals follow in their order.
RECALL_LESSON (R138): the VALID entries of the lesson are walked in ascending position, and the lesson list, which must be
empty, gets one slot for each: the slot that holds the entry, or else the lowest-numbered EMPTY lesson slot not yet given, which
is filled as by a RECALL, with its READ job at the end of the queue; the refusals in their order.
A reclaim block erase in flight is suspended for the READ, with a deadline of 1 ms (R143, R150); that it is not while the
archive is UNMOUNTED is the model's choice (log 34). With another command in flight the READ waits, and an idle port starts
it (R146, GoesOn). -/
def Obligations.RecallsQueueTheirReadJobs : Prop :=
  (∀ l tag s (lesson position b0 b1 b2 b3 : Byte) c named, canTake s l = true → halted s = false →
     s.arch.mount ≠ .mounting → s.port.offline = false →
     (c = Instr.recall l tag [0#8, lesson, position] ∧ lesson ≠ 0#8 ∧ named = entryAt s lesson.toNat position.toNat)
       ∨ (c = Instr.recall l tag [1#8, b0, b1, b2, b3]
         ∧ named = entryWithSeq s (b0.toNat + 256 * b1.toNat + 65536 * b2.toNat + 16777216 * b3.toNat)) →
     (named = none → RefusedWith .notFound c l tag 0x72#8 s)
     ∧ (∀ e h, named = some e → (s.entry e).header = some h →
       (∀ n, presentSlot s e = some n → ∃ t, exec c s = .next t
         ∧ Answers l tag 0x72#8 .alreadyPresent [BitVec.ofNat 8 n] s t ∧ OnlyChanges [.links] s t)
       ∧ (presentSlot s e = none →
         ((∀ n, n ≠ 0 → (s.slot n).state ≠ .empty) → RefusedWith .noFreeSlot c l tag 0x72#8 s)
         ∧ (∀ n, n ≠ 0 → (s.slot n).state = .empty → (∀ m, m ≠ 0 → m < n → (s.slot m).state ≠ .empty) →
           (48 ≤ s.port.queue.length → RefusedWith .queueFull c l tag 0x72#8 s)
           ∧ (s.port.queue.length < 48 →
             let queued : FlashPort := { s.port with queue := s.port.queue ++ [.read ⟨n, e, h.seq, l, tag, .queued, 0⟩] };
             ∃ t, exec c s = .next t
             ∧ GoesOn { s with
                 store := { s.store with slots := s.store.slots.set n { s.slot n with
                   state := .filling, link := none, pins := (s.slot n).pins + 1,
                   info := some ⟨.recall, h.time, h.profile, clampWhole h.view⟩ } }
                 arch := { s.arch with
                   entries := s.arch.entries.set e { s.entry e with readers := (s.entry e).readers + 1 } }
                 port := queued
                 links := (respond l tag 0x72#8 .accepted [BitVec.ofNat 8 n] s).links } t
             ∧ (∀ k, s.port.command = some k → k.kind ≠ .blockErase → t.port = queued)
             ∧ (∀ k, s.port.command = some k → k.kind = .blockErase → s.arch.mount = .mounted →
               t.port = { queued with command := some ⟨.suspend, k.address, 1⟩ }))))))
  ∧ (∀ l tag s (lesson : Byte), canTake s l = true → lesson ≠ 0#8 → halted s = false → s.arch.mount ≠ .mounting →
       s.port.offline = false →
       let found := lessonEntries s lesson.toNat
       let todo := found.countP fun p => (presentSlot s p.1).isNone
       let c := Instr.recallLesson l tag [lesson];
       (s.store.lesson ≠ [] → RefusedWith .lessonNotEmpty c l tag 0x73#8 s)
       ∧ (s.store.lesson = [] → found = [] → RefusedWith .notFound c l tag 0x73#8 s)
       ∧ (s.store.lesson = [] → found ≠ [] →
         (emptyCount s < todo → RefusedWith .noFreeSlot c l tag 0x73#8 s)
         ∧ (todo ≤ emptyCount s → 48 < s.port.queue.length + todo → s.port.queue.length ≤ 48 →
           RefusedWith .queueFull c l tag 0x73#8 s)
         ∧ (todo ≤ emptyCount s → s.port.queue.length + todo ≤ 48 →
           let vacant := (List.finRange 24).filter fun n => decide (n ≠ 0 ∧ (s.slot n).state = .empty)
           let given : List ((Fin 225 × Header) × Fin 24) := (found.filter fun p => (presentSlot s p.1).isNone).zip vacant
           ∃ t u, exec c s = .next t ∧ GoesOn u t
           ∧ u.store = { s.store with slots := u.store.slots, lesson := u.store.lesson }
           ∧ u.store.lesson.map some = (found.map fun p => match presentSlot s p.1 with
               | some n => some n
               | none => (given.find? fun g => decide (g.1.1 = p.1)).map Prod.snd)
           ∧ (∀ g ∈ given, u.slot g.2 = { s.slot g.2 with
               state := .filling, link := none, pins := (s.slot g.2).pins + 1,
               info := some ⟨.recall, g.1.2.time, g.1.2.profile, clampWhole g.1.2.view⟩ })
           ∧ (∀ n, (∀ g ∈ given, g.2 ≠ n) → u.slot n = s.slot n)
           ∧ u.arch = { s.arch with entries := u.arch.entries }
           ∧ (∀ e, u.entry e = { s.entry e with
               readers := (s.entry e).readers + if given.any (fun g => decide (g.1.1 = e)) then 1 else 0 })
           ∧ u.port = { s.port with
               queue := s.port.queue ++ given.map (fun g => .read ⟨g.2, g.1.1, g.1.2.seq, l, tag, .queued, 0⟩) }
           ∧ Answers l tag 0x73#8 .accepted [BitVec.ofNat 8 todo, BitVec.ofNat 8 (found.length - todo)] s u
           ∧ OnlyChanges [.store, .arch, .port, .links] s u)))
  ∧ (∀ s (lesson : Nat) (p : Fin 225 × Header), p ∈ lessonEntries s lesson ↔
       (s.entry p.1).header = some p.2 ∧ p.2.lesson = lesson ∧ p.2.position ≤ 22 ∧ (s.entry p.1).state = .valid
         ∧ ∀ f h, f < p.1 → (s.entry f).state = .valid → (s.entry f).header = some h →
             ¬ (h.lesson = lesson ∧ h.position = p.2.position))
  ∧ (∀ s (lesson : Nat), (lessonEntries s lesson).Pairwise fun p q => p.2.position < q.2.position)

/-- DELETE_ARCHIVED (R139): the VALID entry with that sequence number becomes STALE, a WITHDRAW job joins the queue, and a SAVED
slot linking it becomes HELD; the refusals in their order; an idle port starts the job (R146, GoesOn). REMOUNT (R128): the mount begins,
from OFFLINE with a flash reset, from a port with no command in flight with the read of page 0 of extent 0, and with a reclaim
erase in flight after that has finished. The model's choices: it takes any payload (log 6), and taken while HALTED with an
erase suspended it leaves that erase suspended and reads on (log 33). -/
def Obligations.ArchiveIsDeletedFromAndRemounted : Prop :=
  ∀ l tag s, canTake s l = true →
    (∀ (e0 e1 b0 b1 b2 b3 : Byte) (e : Fin 225), halted s = false → s.arch.mount ≠ .mounting → s.port.offline = false →
      e0.toNat + 256 * e1.toNat = e →
      let c := Instr.deleteArchived l tag [e0, e1, b0, b1, b2, b3]
      let seq := b0.toNat + 256 * b1.toNat + 65536 * b2.toNat + 16777216 * b3.toNat;
      ((s.entry e).state ≠ .valid ∨ (∀ h, (s.entry e).header = some h → h.seq ≠ seq) →
        RefusedWith .notFound c l tag 0x74#8 s)
      ∧ (∀ h, (s.entry e).state = .valid → (s.entry e).header = some h → h.seq = seq →
        (0 < (s.entry e).readers → RefusedWith .entryInUse c l tag 0x74#8 s)
        ∧ ((s.entry e).readers = 0 → 48 ≤ s.port.queue.length → RefusedWith .queueFull c l tag 0x74#8 s)
        ∧ ((s.entry e).readers = 0 → s.port.queue.length < 48 → ∃ t, exec c s = .next t ∧ GoesOn { s with
          arch := entryIn s e .stale
          store := { s.store with slots := s.store.slots.map (withoutLinks [e]) }
          port := { s.port with queue := s.port.queue ++ [.withdraw e false] }
          links := (respond l tag 0x74#8 .ok [] s).links } t)))
    ∧ (∀ payload, s.arch.mount ≠ .mounting → s.port.queue = [] → ∃ t, exec (.remount l tag payload) s = .next t
      ∧ t.arch = { s.arch with mount := .mounting, cause := .remount, scan := ⟨0, [], false⟩ }
      ∧ (s.port.offline = true → t.port = { s.port with command := some ⟨.reset, none, 5⟩, resetCause := some .remount })
      ∧ (s.port.offline = false → s.port.command = none →
        t.port = { s.port with command := some ⟨.pageRead, some (0, 0), 1⟩ })
      ∧ (s.port.offline = false → s.port.command ≠ none → t.port = s.port)
      ∧ Answers l tag 0x75#8 .accepted [] s t ∧ OnlyChanges [.arch, .port, .links] s t)

/-- MOUNT_PAGE_READ (R124, R125): a page of a scanned header block is noted and the next one read; the fourth sets the
extent's entry by the first row of R125's table that holds, keeping its failure count, and the scan goes on with the next extent.
The header fields are those of a valid header record in page 0, whatever the state. A page read that expires a second time
counts as uncorrectable, and the scan stands at the next page (R127).
After extent 224 the mount reconciles (R126): the highest sequence number, the duplicates, the links of the slots, and
MOUNT_DONE to both links with the counts; then it is MOUNTED and the port is at a decision point (R146, GoesOn). A flash reset
that expires ends a mount early (R127, R155, R156): the extents not yet scanned are STALE, the same steps run without a WITHDRAW
job, and it is UNMOUNTED with the outcome FLASH_OFFLINE. It is stated with no job queued, as R151 has the queue empty throughout
a mount.
The model's choices: of duplicates with equal sequence numbers the lowest extent is kept, and is the one a slot takes (log 31);
the WITHDRAW jobs stand by rising extent (log 57); a header's view is held as it stands (log 48); a job that an erase queued
under a mount waits (log 53). -/
def Obligations.TheMountScansItsPages : Prop :=
  let scanned (s : State) (e : Fin 225) (bad : List Bool) (v : EntryState) (notice : Bool) : Prop :=
    let block := 145 * e.val
    let header := if bad.getD 0 false = true then none else readHeader s.flash block
    let blank (i : Nat) : Prop := bad.getD i false = false ∧ pageBlank s.flash block i = true
    let allBlank := ∀ i, i < 4 → blank i
    let retired := bad.getD 3 false = false ∧ pageHead s.flash block 3 4 = retireMarker
    let withdrawn := bad.getD 2 false = false ∧ pageHead s.flash block 2 4 = withdrawMarker
    let committed := bad.getD 1 false = false ∧ ∃ h, header = some h ∧ pageHead s.flash block 1 8 = commitWord h.seq;
    (allBlank → v = .free ∧ notice = false)
      ∧ (¬ allBlank → retired → v = .retired ∧ notice = false)
      ∧ (¬ allBlank → ¬ retired → withdrawn → v = .stale ∧ notice = false)
      ∧ (¬ allBlank → ¬ retired → ¬ withdrawn → header ≠ none →
        (committed → v = .valid) ∧ (¬ committed → v = .stale) ∧ notice = false)
      ∧ (¬ allBlank → ¬ retired → ¬ withdrawn → header = none → v = .stale ∧ (notice = true ↔ ¬ blank 0))
  let entries (s : State) (e : Fin 225) (bad : List Bool) (v : EntryState) : Table Entry 225 := s.arch.entries.set e
    { state := v, header := if bad.getD 0 false = true then none else readHeader s.flash (145 * e.val), readers := 0,
      progress := 0, failures := (s.entry e).failures }
  let noticed (notice : Bool) (s : State) : State := if notice = true then raiseInternal .archiveHeaderBad .none s else s
  let reconciled (outcome : MountOutcome) (u m : State) : Prop :=
    let place (f : Fin 225) : Option (Nat × Nat × Nat) :=
      if (u.entry f).state = .valid then (u.entry f).header.map fun h => (h.lesson, h.position, h.seq) else none
    let duplicate (f : Fin 225) : Bool := (List.finRange 225).any fun g => match place f, place g with
      | some a, some b => decide (a.1 = b.1 ∧ a.2.1 = b.2.1 ∧ (a.2.2 < b.2.2 ∨ (a.2.2 = b.2.2 ∧ g < f)))
      | _, _ => false
    let twins := (List.finRange 225).filter duplicate
    let names (k : ArchiveLink) (f : Fin 225) : Prop :=
      (m.entry f).state = .valid ∧ (m.entry f).header.map Header.seq = some k.seq
    let lost (n : Fin 24) : Bool := (u.slot n).link.any fun k => (List.finRange 225).all fun f =>
      decide (¬ ((m.entry f).state = .valid ∧ (m.entry f).header.map Header.seq = some k.seq))
    let done : Event := .mountDone u.arch.cause outcome (stateCount m .free) (stateCount m .writing) (stateCount m .valid)
      (stateCount m .stale) (stateCount m .retired) twins.length ((List.finRange 24).countP lost);
    (u.arch.highest ≤ m.arch.highest ∧ (∀ f h, (u.entry f).header = some h → h.seq ≤ m.arch.highest)
        ∧ (m.arch.highest = u.arch.highest ∨ ∃ f h, (u.entry f).header = some h ∧ h.seq = m.arch.highest))
      ∧ (∀ f, m.entry f = if duplicate f = true then { u.entry f with state := .stale } else u.entry f)
      ∧ m.port = { u.port with queue := u.port.queue ++ if u.port.offline = true then []
          else (twins.map fun f => .withdraw f false).take (48 - u.port.queue.length) }
      ∧ (∀ n,
        ((u.slot n).link = none → m.slot n = u.slot n)
        ∧ (∀ k f, (u.slot n).link = some k → names k f → (∀ g, g < f → ¬ names k g) →
          m.slot n = { u.slot n with link := some ⟨f, k.seq⟩ })
        ∧ (lost n = true → m.slot n = { u.slot n with
            link := none, state := if (u.slot n).state = .saved then .held else (u.slot n).state }))
      ∧ m.arch = { u.arch with
          entries := m.arch.entries, highest := m.arch.highest,
          mount := if outcome = .complete then .mounted else .unmounted }
      ∧ m.store = { u.store with slots := m.store.slots }
      ∧ m.links = (postTo done .bridge (postTo done .panel u)).links
      ∧ OnlyChanges [.arch, .port, .store, .links] u m;
  (∀ s c (e : Fin 225), s.port.command = some c → c.kind = .pageRead → s.arch.mount = .mounting →
     s.arch.scan.extent = e.val →
     (∀ result,
       let bad := s.arch.scan.bad ++ [decide (result = ReadResult.uncorrectable)]
       let readsNext (t : State) (block page : Nat) : Prop :=
         t.port = { s.port with command := some ⟨.pageRead, some (block, page), 1⟩ };
       (s.arch.scan.bad.length < 3 → ∃ t, exec (.mountPageRead result) s = .next t
         ∧ t.arch = { s.arch with scan := ⟨e, bad, false⟩ } ∧ readsNext t (145 * e) (s.arch.scan.bad.length + 1)
         ∧ OnlyChanges [.arch, .port] s t)
       ∧ (s.arch.scan.bad.length = 3 → ∃ v notice, scanned s e bad v notice
         ∧ (e.val < 224 → ∃ t, exec (.mountPageRead result) s = .next t
           ∧ t.arch = { s.arch with scan := ⟨e + 1, [], false⟩, entries := entries s e bad v }
           ∧ t.faults = (noticed notice s).faults ∧ t.links = (noticed notice s).links
           ∧ readsNext t (145 * (e + 1)) 0 ∧ OnlyChanges [.arch, .port, .faults, .links] s t)
         ∧ (e.val = 224 → ∃ m t, exec (.mountPageRead result) s = .next t ∧ GoesOn m t
           ∧ reconciled .complete { noticed notice s with
               arch := { s.arch with scan := ⟨225, [], false⟩, entries := entries s e bad v }
               port := { s.port with command := none } } m)))
     ∧ (s.arch.scan.again = true → s.port.suspended = none →
       let bad := s.arch.scan.bad ++ [true]
       ∃ t, exec .commandDeadlineExpiry s = .next t
         ∧ (s.arch.scan.bad.length < 3 → t.arch = { s.arch with scan := ⟨e, bad, false⟩ })
         ∧ (s.arch.scan.bad.length = 3 → ∃ v notice, scanned s e bad v notice
           ∧ t.arch = { s.arch with scan := ⟨e + 1, [], false⟩, entries := entries s e bad v }
           ∧ t.faults = (raiseInternal .flashTimeout .none (noticed notice s)).faults
           ∧ t.links = (raiseInternal .flashTimeout .none (noticed notice s)).links)))
  ∧ (∀ s c, s.port.command = some c → c.kind = .reset → s.arch.mount = .mounting → s.port.queue = [] →
       ∃ t, exec .flashResetExpiry s = .next t ∧ reconciled .flashOffline { raiseInternal .flashOffline .none s with
         arch := { s.arch with entries := Table.tabulate 225 fun f =>
           if s.arch.scan.extent ≤ f.val
           then { s.entry f with state := .stale, header := none, readers := 0, progress := 0 }
           else { s.entry f with progress := 0 } }
         port := { s.port with command := none, offline := true, suspended := none, reclaim := none } } t)

/-! ## Flash Port -/

/-- A PROGRAM job's blank checks and page programs (R131, R132, R147), not cancelled, its slot not DAMAGED: after each of the
first three checks the next page is read, also after a page that was not blank, which is the model's choice (log 27). After the
fourth, a blank extent is programmed from its first page on; any other becomes STALE and the lowest FREE entry is taken with the
same sequence number and checked in the same way, or with none FREE the job ends with SAVE_FAILED for ARCHIVE_FULL (R134). A
program that passes puts its bytes into the page, the rest of it 0xFF, and is followed by the next. While the part is HALTED or
a READ waits, the job becomes PAUSED in place of its next command, and a decision point is reached (R146, R147, R151). -/
def Obligations.ProgramJobsGoOn : Prop :=
  ∀ s c before j after (e : Fin 225) seq, s.port.command = some c → JobAt s.port before (.program j) after →
    j.state = .running → j.held = some (e, seq) → j.cancelled = false → (s.slot j.slot).state ≠ .damaged →
    let pauses : Prop := halted s = true ∨ ∃ r, Job.read r ∈ s.port.queue ∧ r.state = .queued
    let goesOn (u t : State) (k : ProgramJob) (next : FlashCommand) : Prop :=
      (¬ pauses → t = { u with port := { s.port with queue := before ++ .program k :: after, command := some next } })
      ∧ (pauses → GoesOn { u with port := { s.port with
          queue := before ++ .program { k with state := .paused } :: after, command := none } } t);
    (c.kind = .pageRead → ∀ result,
      let blank := decide (result = ReadResult.data) && pageBlank s.flash (145 * e) j.checked
      let k : ProgramJob := { j with checked := j.checked + 1, notBlank := j.notBlank || !blank };
      ∃ t, exec (.blankCheckRead result) s = .next t
        ∧ (j.checked < 3 → goesOn s t k ⟨.pageRead, some (145 * e, j.checked + 1), 1⟩)
        ∧ (j.checked = 3 → k.notBlank = false → goesOn s t k ⟨.pageProgram, some (programPlace e j.progress), 2⟩)
        ∧ (j.checked = 3 → k.notBlank = true → (s.entry e).state = .writing →
          let stale := entryIn s e .stale;
          (∀ f, (s.entry f).state = .free → (∀ g, g < f → (s.entry g).state ≠ .free) →
            let v : Entry := { s.entry f with state := .writing, header := some (jobHeader j seq (s.slot j.slot).info) };
            goesOn { s with arch := { stale with entries := stale.entries.set f v } } t
              { j with held := some (f, seq), checked := 0, notBlank := false } ⟨.pageRead, some (145 * f, 0), 1⟩)
          ∧ ((∀ f, (s.entry f).state ≠ .free) → GoesOn { s with
              arch := stale
              store := { s.store with slots := s.store.slots.set j.slot (leftSlot (s.slot j.slot)) }
              port := { s.port with queue := before ++ after, command := none }
              links := (postIssued (.saveFailed j.tag j.slot j.lesson j.position .archiveFull) j.link s).links } t))
        ∧ OnlyChanges [.arch, .port, .store, .links] s t)
    ∧ (c.kind = .pageProgram → 4 ≤ j.checked → j.progress < 4609 → ∃ t, exec (.pageProgramFinish .pass) s = .next t
      ∧ goesOn { s with flash := t.flash } t { j with progress := j.progress + 1 }
          ⟨.pageProgram, some (programPlace e (j.progress + 1)), 2⟩
      ∧ (let place := programPlace e j.progress
         let bytes := programBytes s j e seq;
        (∀ i, i < 4096 → t.flash.read Config.flashBlank (pageAddress place.1 place.2 + i) = bytes.getD i 0xFF#8)
        ∧ (∀ a, ¬ InPage place a → t.flash.read Config.flashBlank a = s.flash.read Config.flashBlank a)))

/-- The commit (R133): when the commit word's program passes, the entry becomes VALID, another VALID entry of its lesson and
position STALE with a WITHDRAW job and its slots unlinked, the slot SAVED with the link to the new entry and its pin released;
the job leaves, and SAVE_DONE goes out.
Other ends (R134): the job leaves, SAVE_FAILED goes out, the pin is released and a SAVING slot becomes HELD. A failed program makes
the entry RETIRED with one failure more and a RETIRE job, with FLASH_PROGRAM_FAIL (R154); an expired deadline makes it STALE
with one failure more, or at 3 or more RETIRED with a RETIRE job (R141, R153), with FLASH_TIMEOUT. A job CANCELLED or on a
DAMAGED slot ends at the boundary after its check or program (R135), its entry STALE, or RETIRED after a failed program. The
model's choices: SAVE_FAILED precedes the fault (log 37); such a job takes no failure, CANCELLED goes before DAMAGED, and
an expiry on a DAMAGED slot ends with TIMEOUT (log 29).
A SLOT_READ_UNCORRECTABLE met by the job's own data read makes the slot DAMAGED and the entry STALE (R107, R132; that the job
ends at once is the model's choice, log 28).
What the port does next is GoesOn (R146). The expiry is stated with no mount under way and no erase suspended. -/
def Obligations.SavesEndWithTheFlash : Prop :=
  ∀ s c before j after (e : Fin 225) seq, s.port.command = some c → JobAt s.port before (.program j) after →
    j.state = .running → j.held = some (e, seq) → (s.entry e).state = .writing → s.port.queue.length ≤ 48 →
    let failed (r : SaveFailure) (u : State) : State := postIssued (.saveFailed j.tag j.slot j.lesson j.position r) j.link u
    let ended (tail : List Job) : State := { s with
      store := { s.store with slots := s.store.slots.set j.slot (leftSlot (s.slot j.slot)) }
      port := { s.port with queue := before ++ after ++ tail, command := none } }
    let early (r : SaveFailure) : Prop := (j.cancelled = true ∧ r = .cancelled)
      ∨ (j.cancelled = false ∧ (s.slot j.slot).state = .damaged ∧ r = .damaged)
    let sound : Prop := j.cancelled = false ∧ (s.slot j.slot).state ≠ .damaged
    let counted : Entry := { s.entry e with failures := satSucc 255 (s.entry e).failures }
    let entry (v : Entry) : Archive := { s.arch with entries := s.arch.entries.set e v }
    let outside (t : State) : Prop :=
      ∀ a, ¬ InPage (programPlace e j.progress) a → t.flash.read Config.flashBlank a = s.flash.read Config.flashBlank a;
    (c.kind = .pageProgram →
      (sound → j.progress = 4609 →
        let saved (v : Slot) : Slot := { v with state := .saved, link := some ⟨e, seq⟩, pins := (s.slot j.slot).pins - 1 }
        let other (f : Fin 225) : Prop := f ≠ e ∧ (s.entry f).state = .valid
          ∧ ∃ h, (s.entry f).header = some h ∧ h.lesson = j.lesson ∧ h.position = j.position
        let done : State := { ended [] with
          links := (postIssued (.saveDone j.tag j.slot j.lesson j.position e seq) j.link s).links };
        ∃ t, exec (.pageProgramFinish .pass) s = .next t ∧ pageHead t.flash (145 * e) 1 8 = commitWord seq ∧ outside t
          ∧ ((∀ f, ¬ other f) → GoesOn { done with
            flash := t.flash
            arch := entryIn s e .valid
            store := { s.store with slots := s.store.slots.set j.slot (saved (s.slot j.slot)) } } t)
          ∧ (∀ f, other f → (∀ g, g ≠ f → ¬ other g) → GoesOn { done with
              flash := t.flash
              arch := { s.arch with
                entries := (entryIn s e .valid).entries.set f { s.entry f with state := .stale } }
              store := { s.store with
                slots := (s.store.slots.map (withoutLinks [f])).set j.slot (saved (s.slot j.slot)) }
              port := { s.port with queue := before ++ after ++ [.withdraw f false], command := none } } t))
      ∧ (∀ r, early r → ∃ t, exec (.pageProgramFinish .pass) s = .next t ∧ outside t ∧ GoesOn { ended [] with
          flash := t.flash, arch := entryIn s e .stale, links := (failed r s).links } t)
      ∧ (∀ r : SaveFailure, (sound ∧ r = .programFail) ∨ early r → ∃ t, exec (.pageProgramFinish .fail) s = .next t
        ∧ outside t ∧ let raised := raiseInternal .flashProgramFail .none (failed r s);
          GoesOn { ended [.retire e false] with
            flash := t.flash
            freeCount := t.freeCount
            arch := entry { if r = .programFail then counted else s.entry e with state := .retired }
            links := raised.links
            faults := raised.faults } t)
      ∧ (sound → 1 ≤ j.progress → j.progress ≤ 4608 → ∀ v, (s.slot j.slot).state = v → v = .held ∨ v = .saving ∨ v = .saved →
        ∃ t, exec (.slotReadUncorrectable j.slot .flashPort) s = .next t
          ∧ let raised := raiseInternal .dramUncorrectable (.slot j.slot) s;
            GoesOn { ended [] with
              arch := entryIn s e .stale
              store := { s.store with slots := s.store.slots.set j.slot { s.slot j.slot with
                state := .damaged, link := if v = .saved then (s.slot j.slot).link else none, pins := (s.slot j.slot).pins - 1 } }
              links := (failed .damaged raised).links
              faults := raised.faults } t))
    ∧ (c.kind = .pageRead → ∀ result r, early r → ∃ t, exec (.blankCheckRead result) s = .next t
      ∧ GoesOn { ended [] with arch := entryIn s e .stale, links := (failed r s).links } t)
    ∧ (c.kind = .pageRead ∨ c.kind = .pageProgram → s.arch.mount ≠ .mounting → s.port.suspended = none →
      ∀ r : SaveFailure, (j.cancelled = false ∧ r = .timeout) ∨ (j.cancelled = true ∧ r = .cancelled) →
      let left : Entry := if r = .timeout then counted else s.entry e
      let retires := decide (r = .timeout ∧ 3 ≤ left.failures);
      ∃ t, exec .commandDeadlineExpiry s = .next t
        ∧ let raised := raiseInternal .flashTimeout .none (failed r s);
          t = { ended (if retires then [.retire e false] else []) with
            flash := t.flash
            freeCount := t.freeCount
            arch := entry { left with state := if retires then .retired else .stale }
            port := { s.port with
              queue := before ++ after ++ (if retires then [.retire e false] else [])
              command := some ⟨.reset, none, 5⟩
              resetCause := some .expiry }
            links := raised.links
            faults := raised.faults })

/-- A READ job's page reads (R137, R148): the page's bytes go into the slot at the page's place and the next page is read, or
while HALTED the job becomes PAUSED (R151); the last page makes the slot SAVED with the link to a still VALID entry, which no
DAMAGED slot then links, or HELD with RECALL_DONE's superseded flag; an uncorrectable read makes the slot EMPTY, with
RECALL_FAILED and ARCHIVE_READ_UNCORRECTABLE; an expired deadline makes it EMPTY too, with one failure more on the entry,
RECALL_FAILED and FLASH_TIMEOUT (R153; the event precedes the fault, log 37), stated with no erase suspended. Pin and reader
count are released at every end.
The end of the job is a decision point (R146, GoesOn): a paused READ goes on first, then the oldest QUEUED READ; with no READ
left a suspended erase is resumed, and without one the oldest WITHDRAW or RETIRE job, the paused PROGRAM job, the oldest QUEUED
PROGRAM job, or reclaim has its turn. -/
def Obligations.ReadJobsFillTheirSlot : Prop :=
  ∀ s c before j after h, s.port.command = some c → c.kind = .pageRead → JobAt s.port before (.read j) after →
    j.state = .running → s.arch.mount ≠ .mounting →
    let e : Fin 225 := j.extent
    let left : Entry := { s.entry e with readers := (s.entry e).readers - 1 }
    let ended : State := { s with
      port := { s.port with queue := before ++ after, command := none }
      arch := { s.arch with entries := s.arch.entries.set e left } }
    let emptied : PageStore := { s.store with
      slots := s.store.slots.set j.slot
        { s.slot j.slot with state := .empty, info := none, link := none, pins := (s.slot j.slot).pins - 1 }
      lesson := s.store.lesson.filter fun m => decide (m ≠ j.slot) }
    let filled (t : State) : Prop :=
      (∀ i, i < 4096 → (t.slot j.slot).content.read Config.dramBlank (4096 * j.progress + i)
        = s.flash.read Config.flashBlank (((145 * e + (1 + j.progress / 32)) * 32 + j.progress % 32) * 4096 + i))
    let completed (superseded : Bool) : Prop := ∃ t u, exec (.readJobPageRead .data) s = .next t ∧ GoesOn u t
      ∧ filled u
      ∧ u.slot j.slot = { s.slot j.slot with
          state := if superseded then .held else .saved, link := if superseded then none else some ⟨e, j.seq⟩,
          pins := (s.slot j.slot).pins - 1, content := (u.slot j.slot).content }
      ∧ (∀ n, n ≠ j.slot → u.slot n = { s.slot n with link :=
          if superseded = false ∧ (s.slot n).state = .damaged ∧ (s.slot n).link.any (fun k => decide (k.extent = e)) then none
          else (s.slot n).link })
      ∧ u.store = { s.store with slots := u.store.slots }
      ∧ u.port = ended.port ∧ u.arch = ended.arch
      ∧ u.links = (postIssued (.recallDone j.tag j.slot e j.seq h.lesson h.position superseded) j.link s).links
      ∧ OnlyChanges [.port, .store, .arch, .links] s u;
    (j.progress + 1 < 4608 → ∃ t, exec (.readJobPageRead .data) s = .next t
      ∧ t.port = { s.port with
          queue := before ++ .read { j with
            progress := j.progress + 1, state := if halted s = true then .paused else .running } :: after
          command := if halted s = true then none
            else some ⟨.pageRead, some (145 * e + (1 + (j.progress + 1) / 32), (j.progress + 1) % 32), 1⟩ }
      ∧ filled t ∧ t.slot j.slot = { s.slot j.slot with content := (t.slot j.slot).content }
      ∧ (∀ n, n ≠ j.slot → t.slot n = s.slot n) ∧ OnlyChanges [.port, .store] s t)
    ∧ (j.progress + 1 = 4608 → (s.entry e).header = some h →
      ((s.entry e).state = .valid → h.seq = j.seq → completed false)
      ∧ ((s.entry e).state ≠ .valid ∨ h.seq ≠ j.seq → completed true))
    ∧ (∃ t, exec (.readJobPageRead .uncorrectable) s = .next t
      ∧ let raised := raiseInternal .archiveReadUncorrectable .none s;
        GoesOn { ended with
          store := emptied
          faults := raised.faults
          links := (postIssued (.recallFailed j.tag j.slot e .uncorrectable) j.link raised).links } t)
    ∧ (s.port.suspended = none → ∃ t, exec .commandDeadlineExpiry s = .next t
      ∧ let raised := raiseInternal .flashTimeout .none (postIssued (.recallFailed j.tag j.slot e .timeout) j.link s);
        t = { ended with
          store := emptied
          arch := { s.arch with
            entries := s.arch.entries.set e { left with failures := satSucc 255 (s.entry e).failures } }
          port := { ended.port with command := some ⟨.reset, none, 5⟩, resetCause := some .expiry }
          faults := raised.faults
          links := raised.links })

/-- WITHDRAW and RETIRE jobs (R140, R148): a blank word page is programmed, or while HALTED the job goes back to QUEUED (R151);
any other page, or one that cannot be read, lets the job complete; a word that is written stands in the page and ends it. A
failed word program ends the job with FLASH_PROGRAM_FAIL, and makes a WITHDRAW job's entry RETIRED with one failure more and a
RETIRE job; the page of a failed or expired program does not hold the word, so the next mount finds none. The expiry of the check or of the program ends the job with FLASH_TIMEOUT and a flash reset, and leaves a WITHDRAW
job's entry STALE with one failure more, or at 3 or more RETIRED with a RETIRE job (R141, R152, R153); stated with no erase
suspended. That a failure or an expiry of a RETIRE job leaves its entry's failure count as it is, is the model's choice
(log 30). Stated with no mount under way, and with a page program in flight at the job's own page, as every program the port
issues for it is. An entry that was VALID, which no run reaches while a WITHDRAW job is on it, loses its
slots' links (R108).
The end of the job is a decision point (R146, GoesOn): of the jobs left the oldest QUEUED READ is taken first, then the oldest
QUEUED WITHDRAW or RETIRE job, the paused PROGRAM job, the oldest QUEUED PROGRAM job, and with an empty queue reclaim. -/
def Obligations.WordJobsWriteTheirWord : Prop :=
  ∀ s c before after (e : Fin 225), s.port.command = some c → s.arch.mount ≠ .mounting → s.port.queue.length ≤ 48 →
    let ended (tail : List Job) : State := { s with
      port := { s.port with queue := before ++ after ++ tail, command := none } }
    let store : PageStore :=
      if (s.entry e).state = .valid then { s.store with slots := s.store.slots.map (withoutLinks [e]) } else s.store;
    (∀ job page word, (job = Job.withdraw e true ∧ page = 2 ∧ word = withdrawMarker)
        ∨ (job = Job.retire e true ∧ page = 3 ∧ word = retireMarker) → JobAt s.port before job after →
      let outside (t : State) : Prop :=
        ∀ a, ¬ InPage (145 * e, page) a → t.flash.read Config.flashBlank a = s.flash.read Config.flashBlank a;
      (c.kind = .pageRead → pageBlank s.flash (145 * e) page = true → ∃ t, exec (.wordCheckRead .data) s = .next t
        ∧ (halted s = false → t = s.withPort { s.port with command := some ⟨.pageProgram, some (145 * e, page), 2⟩ })
        ∧ (halted s = true → t = s.withPort { s.port with
            queue := before ++ job.withState .queued :: after, command := none }))
      ∧ (c.kind = .pageRead → ∀ result, result = .uncorrectable ∨ pageBlank s.flash (145 * e) page = false →
        ∃ t, exec (.wordCheckRead result) s = .next t ∧ GoesOn (ended []) t)
      ∧ (c.kind = .pageProgram → ∃ t, exec (.wordProgramFinish .pass) s = .next t
        ∧ GoesOn { ended [] with flash := t.flash } t ∧ pageHead t.flash (145 * e) page 4 = word ∧ outside t)
      ∧ (c.kind = .pageProgram → ∃ t, exec (.wordProgramFinish .fail) s = .next t
        ∧ (let raised := raiseInternal .flashProgramFail .none s
          let kept : State := { ended [] with
            flash := t.flash, freeCount := t.freeCount, faults := raised.faults, links := raised.links };
          (page = 3 → GoesOn kept t)
          ∧ (page = 2 → GoesOn { kept with
            store := store
            port := (ended [.retire e false]).port
            arch := { s.arch with entries := s.arch.entries.set e { s.entry e with
              state := .retired, failures := satSucc 255 (s.entry e).failures } } } t))
        ∧ pageHead t.flash (145 * e) page 4 ≠ word ∧ outside t)
      ∧ (c.kind = .pageRead ∨ c.kind = .pageProgram → (c.kind = .pageProgram → c.address = some (145 * e.val, page)) →
        s.port.suspended = none →
        let failures := if (s.entry e).failures < 255 then (s.entry e).failures + 1 else 255
        let left : Entry := if page = 2
          then { s.entry e with state := if 3 ≤ failures then .retired else .stale, failures := failures } else s.entry e
        let raised := raiseInternal .flashTimeout .none s
        ∃ t, exec .commandDeadlineExpiry s = .next t ∧ outside t
          ∧ (c.kind = .pageProgram → pageHead t.flash (145 * e) page 4 ≠ word)
          ∧ t = { s with
            flash := t.flash
            freeCount := t.freeCount
            store := if page = 2 then store else s.store
            arch := { s.arch with entries := s.arch.entries.set e left }
            port := { s.port with
              queue := before ++ after ++ if page = 2 ∧ 3 ≤ failures then [.retire e false] else []
              command := some ⟨.reset, none, 5⟩
              resetCause := some .expiry }
            faults := raised.faults
            links := raised.links }))

/-- A reclaim erase ends (R141, R149, R150, R154), by its own finish or as found by a suspend: a block that passed is blank
and counts in the erase progress, after the header block the entry is FREE without header fields; a failed one makes the
entry RETIRED with progress 0, one failure more, a RETIRE job while the queue has a place, and FLASH_ERASE_FAIL. That job is
queued under a mount too, where R151 has the queue empty: the model's choice (log 53). A suspend that finds the erase unfinished
makes the port SUSPENDED with the extent and block; a finished resume puts the erase in flight again with a deadline of 20 ms,
or suspends it again for a READ that waits (R150; not while HALTED or MOUNTING, log 34).
What follows is a decision point (R146, GoesOn). After every end of a suspend a QUEUED READ, the oldest, is started: case 1 of
R146, stated apart for a port that may start work with no paused READ in its queue. -/
def Obligations.ReclaimErasesEnd : Prop :=
  ∀ s c (e : Fin 225) b, s.port.command = some c → s.port.reclaim = some (e, b) → (s.entry e).state = .stale →
    let freed : FlashPort := { s.port with command := none, reclaim := none }
    let entry (v : Entry) : Archive := { s.arch with entries := s.arch.entries.set e v }
    let erased (t : State) : State := { s with
      flash := t.flash
      port := freed
      arch := entry (if b = 0 then { s.entry e with state := .free, progress := 0, header := none }
        else { s.entry e with progress := (s.entry e).progress + 1 }) }
    let raised := raiseInternal .flashEraseFail .none s
    let failed (t : State) : State := { s with
      flash := t.flash
      freeCount := t.freeCount
      port := { freed with
        queue := s.port.queue ++ if s.port.queue.length < 48 then [.retire e false] else [] }
      arch := entry { s.entry e with
        state := .retired, progress := 0, failures := satSucc 255 (s.entry e).failures }
      faults := raised.faults
      links := raised.links }
    let suspended : State := { s with port := { s.port with command := none, suspended := some (e, b) } }
    let outside (t : State) : Prop :=
      ∀ a, ¬ InBlock (145 * e + b) a → t.flash.read Config.flashBlank a = s.flash.read Config.flashBlank a
    let blank (t : State) : Prop := ∀ a, InBlock (145 * e + b) a → t.flash.read Config.flashBlank a = 0xFF#8
    let readStarts (u t : State) : Prop := ∀ before j after, u.port.queue = before ++ .read j :: after → MayStart u →
      j.state = .queued → (∀ r, Job.read r ∈ before → r.state ≠ .queued) → (∀ r, Job.read r ∈ u.port.queue → r.state ≠ .paused) →
      t = { u with port := { u.port with
        queue := before ++ .read { j with state := .running } :: after
        command := some ⟨.pageRead, some (145 * j.extent + (1 + j.progress / 32), j.progress % 32), 1⟩ } };
    (c.kind = .blockErase → (∃ t, exec (.blockEraseFinish .pass) s = .next t ∧ GoesOn (erased t) t ∧ blank t ∧ outside t)
      ∧ ∃ t, exec (.blockEraseFinish .fail) s = .next t ∧ GoesOn (failed t) t ∧ outside t)
    ∧ (c.kind = .suspend → (∃ t, exec (.suspendFinish .suspended) s = .next t
        ∧ GoesOn suspended t ∧ readStarts suspended t ∧ t.flash = s.flash)
      ∧ (∃ t, exec (.suspendFinish .finishedPass) s = .next t
        ∧ GoesOn (erased t) t ∧ readStarts (erased t) t ∧ blank t ∧ outside t)
      ∧ ∃ t, exec (.suspendFinish .finishedFail) s = .next t
        ∧ GoesOn (failed t) t ∧ readStarts (failed t) t ∧ outside t)
    ∧ (c.kind = .resume → ∃ t, exec .resumeFinish s = .next t
      ∧ GoesOn { s with port := { s.port with
          suspended := none, command := some ⟨.blockErase, some (145 * e + b, 0), 20⟩ } } t)

/-- Deadlines (R152, R155, R156): the expiry of any command but a flash reset issues a flash reset with the cause EXPIRY and
raises FLASH_TIMEOUT (the ends of a PROGRAM or READ job by it stand with those jobs; a mount's page is read once more, R127);
a flash reset that finishes takes the port out of OFFLINE and is a decision point, or with a mount under way lets it read its
next page (R146, R124, GoesOn); one that expires makes it OFFLINE with
an empty job queue, nothing suspended or under reclaim, every erase progress 0, and raises FLASH_OFFLINE. With no such
command in flight there is no such step (log 3).
The expiry of a reclaim's erase, suspend or resume leaves the extent STALE with progress 0 and one failure more, or at 3 or more
RETIRED, with a RETIRE job while the queue has a place (R141, R153). The expiry of a page read or program while an erase is
suspended has the effects it has without one, and abandons that erase with the same outcome for its extent (R152); that a mount
may be under way then is the model's choice (log 33), and its page is not one to be read again, since the first expiry abandons
the erase. OFFLINE ends
the jobs of the queue, oldest first (R155): SAVE_FAILED for a PROGRAM job, whose entry becomes STALE and whose SAVING slot HELD,
RECALL_FAILED for a READ job, whose slot becomes EMPTY and leaves the lesson list, and nothing for a WITHDRAW or RETIRE job;
pins and reader counts are released. Stated for PROGRAM jobs whose entry, if they hold one, is WRITING, and with no mount under
way; a mount that OFFLINE ends has its own statement. That the events precede FLASH_OFFLINE is the order of R155. -/
def Obligations.DeadlinesAndResetsEnd : Prop :=
  ∀ s,
    (∀ c, s.port.command = some c → c.kind ≠ .reset → ∃ t, exec .commandDeadlineExpiry s = .next t
      ∧ t.port.command = some ⟨.reset, none, 5⟩ ∧ t.port.resetCause = some .expiry ∧ t.port.offline = s.port.offline
      ∧ ((s.faults.policy.get FaultKind.flashTimeout.index) = ⟨false, .error⟩ → s.faults.error = none →
        s.arch.mount ≠ .mounting →
        t.faults.error = some ⟨.flashTimeout, .internal, .none, none, s.comp.frameCounter, s.store.clock⟩)
      ∧ (s.arch.mount ≠ .mounting ∨ s.arch.scan.again = false →
        t.faults = (raiseInternal .flashTimeout .none s).faults)
      ∧ (s.arch.mount = .mounting → c.kind = .pageRead → s.arch.scan.again = false → s.port.suspended = none →
        t.arch = { s.arch with scan := { s.arch.scan with again := true } })
      ∧ (∀ a, ¬ InWork s a → t.flash.read Config.flashBlank a = s.flash.read Config.flashBlank a)
      ∧ OnlyChanges [.arch, .port, .flash, .store, .links, .faults, .freeCount] s t)
    ∧ (∀ c, s.port.command = some c → c.kind = .reset →
      (∃ t, exec .flashResetFinish s = .next t ∧ t.port.offline = false ∧ t.port.resetCause = none
        ∧ GoesOn (s.withPort { s.port with command := none, offline := false, resetCause := none }) t)
      ∧ (∃ t, exec .flashResetExpiry s = .next t ∧ t.port.offline = true ∧ t.port.queue = [] ∧ t.port.command = none
        ∧ t.port.suspended = none ∧ t.port.reclaim = none ∧ t.port.resetCause = s.port.resetCause
        ∧ (∀ e, (t.entry e).progress = 0) ∧ t.faults = (raiseInternal .flashOffline .none s).faults
        ∧ (s.arch.mount = .mounting → t.arch.mount = .unmounted)
        ∧ (s.arch.mount ≠ .mounting → t.arch.mount = s.arch.mount)
        ∧ OnlyChanges [.arch, .port, .store, .links, .faults] s t))
    ∧ (∀ c (f : Fin 225) b, s.port.command = some c → s.port.reclaim = some (f, b) → (s.entry f).state = .stale →
      let failed (v : Entry) : Entry :=
        let failures := if v.failures < 255 then v.failures + 1 else 255
        { v with progress := 0, failures := failures, state := if 3 ≤ failures then .retired else .stale }
      let retired (v : Entry) (q : List Job) : List Job :=
        q ++ if 3 ≤ (failed v).failures ∧ q.length < 48 then [.retire f false] else [];
      (c.kind = .blockErase ∨ c.kind = .suspend ∨ c.kind = .resume → ∃ t, exec .commandDeadlineExpiry s = .next t
        ∧ (let raised := raiseInternal .flashTimeout .none s;
          t = { s with
            flash := t.flash
            freeCount := t.freeCount
            arch := { s.arch with entries := s.arch.entries.set f (failed (s.entry f)) }
            port := { s.port with
              queue := retired (s.entry f) s.port.queue, command := some ⟨.reset, none, 5⟩, suspended := none,
              reclaim := none, resetCause := some .expiry }
            faults := raised.faults
            links := raised.links }))
      ∧ (c.kind = .pageRead ∨ c.kind = .pageProgram → s.port.suspended = some (f, b) →
        (s.arch.mount = .mounting → s.arch.scan.again = false) →
        ∃ t v, exec .commandDeadlineExpiry s = .next t
          ∧ exec .commandDeadlineExpiry (s.withPort { s.port with suspended := none }) = .next v
          ∧ t = { v with
            flash := t.flash
            freeCount := t.freeCount
            arch := { v.arch with entries := v.arch.entries.set f (failed (v.entry f)) }
            port := { v.port with queue := retired (v.entry f) v.port.queue, suspended := none, reclaim := none } }))
    ∧ (∀ c, s.port.command = some c → c.kind = .reset → s.arch.mount ≠ .mounting →
      (∀ j e seq, Job.program j ∈ s.port.queue → j.held = some (e, seq) → (s.entry e).state = .writing) →
      let told (u : State) (j : Job) : State := match j with
        | .program p => postIssued (.saveFailed p.tag p.slot p.lesson p.position .offline) p.link u
        | .read r => postIssued (.recallFailed r.tag r.slot r.extent .offline) r.link u
        | .withdraw _ _ | .retire _ _ => u
      let left (n : Fin 24) (v : Slot) (j : Job) : Slot := match j with
        | .program p => if p.slot = n then leftSlot v else v
        | .read r => if r.slot = n then { v with state := .empty, info := none, link := none, pins := v.pins - 1 } else v
        | .withdraw _ _ | .retire _ _ => v
      let holds (e : Fin 225) (j : Job) : Bool := match j with
        | .program p => p.held.any fun h => decide (h.1 = e)
        | .read _ | .withdraw _ _ | .retire _ _ => false
      let reads (e : Fin 225) (j : Job) : Bool := match j with
        | .read r => decide (r.extent = e)
        | .program _ | .withdraw _ _ | .retire _ _ => false
      let fills (n : Fin 24) (j : Job) : Bool := match j with
        | .read r => decide (r.slot = n)
        | .program _ | .withdraw _ _ | .retire _ _ => false
      ∃ t, exec .flashResetExpiry s = .next t
        ∧ t.links = (raiseInternal .flashOffline .none (s.port.queue.foldl told s)).links
        ∧ (∀ n, t.slot n = s.port.queue.foldl (left n) (s.slot n))
        ∧ t.store = { s.store with
            slots := t.store.slots, lesson := s.store.lesson.filter fun n => !s.port.queue.any (fills n) }
        ∧ (∀ e, t.entry e = { s.entry e with
            state := if s.port.queue.any (holds e) = true then .stale else (s.entry e).state
            readers := (s.entry e).readers - s.port.queue.countP (reads e), progress := 0 })
        ∧ t.arch = { s.arch with entries := t.arch.entries })
    ∧ (s.port.command = none → exec .commandDeadlineExpiry s = .next s ∧ exec .flashResetFinish s = .next s
      ∧ exec .flashResetExpiry s = .next s)

/-! ## Fault Recorder -/
end

