-- ==== Sys2Proof/Laws/Mem.lean ====
section
/-!
SUPPORT. Addressed bytes: what a byte reads as after a write or an erase, and that each keeps the canonical form.
-/

namespace Sys2Proof.Machine

variable {blank : Byte} {m : Mem}

theorem Mem.wf_nil : Mem.Wf blank [] := ⟨.nil, by simp⟩

/-! ## The cells of a run -/

theorem Mem.cells_bounds {a : Nat} {vs : List Byte} {c : Host.Cell} (h : c ∈ Mem.cells blank a vs) :
    a ≤ c.1 ∧ c.1 < a + vs.length ∧ c.2 ≠ blank := by
  induction vs generalizing a with
  | nil => simp [Mem.cells] at h
  | cons v vs ih =>
    simp only [Mem.cells] at h
    simp only [List.length_cons]
    split at h
    · obtain ⟨h1, h2, h3⟩ := ih h
      exact ⟨by omega, by omega, h3⟩
    · rename_i hv
      rcases List.mem_cons.1 h with rfl | h
      · exact ⟨Nat.le_refl _, by simp, hv⟩
      · obtain ⟨h1, h2, h3⟩ := ih h
        exact ⟨by omega, by omega, h3⟩

theorem Mem.cells_pairwise (a : Nat) (vs : List Byte) : (Mem.cells blank a vs).Pairwise (fun x y => x.1 < y.1) := by
  induction vs generalizing a with
  | nil => exact .nil
  | cons v vs ih =>
    simp only [Mem.cells]
    split
    · exact ih _
    · refine List.pairwise_cons.2 ⟨fun c hc => ?_, ih _⟩
      have := (Mem.cells_bounds hc).1
      show a < c.1
      omega

theorem Mem.lookup_append (p q : Mem) (x : Nat) : (p ++ q).lookup x = (p.lookup x).or (q.lookup x) := by
  induction p with
  | nil => simp
  | cons c p ih =>
    obtain ⟨k, v⟩ := c
    simp only [List.cons_append, List.lookup_cons]
    split
    · simp
    · exact ih

theorem Mem.lookup_eq_none {p : Mem} {x : Nat} (h : ∀ c ∈ p, c.1 ≠ x) : p.lookup x = none := by
  induction p with
  | nil => rfl
  | cons c p ih =>
    obtain ⟨k, v⟩ := c
    have hk : (x == k) = false := beq_eq_false_iff_ne.2 fun e => h _ (List.mem_cons_self ..) e.symm
    simp only [List.lookup_cons, hk]
    exact ih fun c hc => h c (List.mem_cons_of_mem _ hc)

theorem Mem.lookup_filter (m : Mem) (p : Nat → Bool) (x : Nat) :
    (m.filter fun c => p c.1).lookup x = if p x then m.lookup x else none := by
  induction m with
  | nil => simp
  | cons c m ih =>
    obtain ⟨k, v⟩ := c
    by_cases hx : x = k
    · subst hx
      by_cases hp : p x = true
      · simp [hp]
      · simp only [Bool.not_eq_true] at hp
        simp [hp, ih]
    · have hk : (x == k) = false := beq_eq_false_iff_ne.2 hx
      by_cases hp : p k = true
      · simp [hp, List.lookup_cons, hk, ih]
      · simp only [Bool.not_eq_true] at hp
        simp [hp, List.lookup_cons, hk, ih]

theorem Mem.lookup_below (m : Mem) (a x : Nat) : (m.below a).lookup x = if x < a then m.lookup x else none := by
  have := Mem.lookup_filter m (fun k => decide (k < a)) x
  simpa [Mem.below] using this

theorem Mem.lookup_above (m : Mem) (a x : Nat) : (m.above a).lookup x = if a ≤ x then m.lookup x else none := by
  have := Mem.lookup_filter m (fun k => decide (a ≤ k)) x
  simpa [Mem.above] using this

theorem Mem.read_cells (a : Nat) (vs : List Byte) (i : Nat) (h : i < vs.length) :
    ((Mem.cells blank a vs).lookup (a + i)).getD blank = vs[i] := by
  induction vs generalizing a i with
  | nil => simp at h
  | cons v vs ih =>
    simp only [Mem.cells]
    cases i with
    | zero =>
      split
      · rename_i hv
        rw [Mem.lookup_eq_none]
        · simp [hv]
        · intro c hc
          have := (Mem.cells_bounds hc).1
          omega
      · simp
    | succ i =>
      have e : a + (i + 1) = a + 1 + i := by omega
      have hi : i < vs.length := by simpa using h
      split
      · rw [e]
        simpa using ih (a + 1) i hi
      · have hk : (a + (i + 1) == a) = false := beq_eq_false_iff_ne.2 (by omega)
        simp only [List.lookup_cons, hk]
        rw [e]
        simpa using ih (a + 1) i hi

/-! ## Writing a run -/

/-- A byte inside the run reads as written; every other byte as before. -/
theorem Mem.read_writeRun (blank : Byte) (m : Mem) (a : Nat) (vs : List Byte) (x : Nat) :
    (m.writeRun blank a vs).read blank x =
      if h : a ≤ x ∧ x < a + vs.length then vs[x - a]'(by omega) else m.read blank x := by
  unfold Mem.read Mem.writeRun
  rw [Mem.lookup_append, Mem.lookup_append, Mem.lookup_below, Mem.lookup_above]
  by_cases h : a ≤ x ∧ x < a + vs.length
  · have hb : ¬ x < a := by omega
    have ha : ¬ a + vs.length ≤ x := by omega
    have := Mem.read_cells (blank := blank) a vs (x - a) (by omega)
    rw [show a + (x - a) = x by omega] at this
    simp only [hb, ha, if_false, Option.none_or, Option.or_none]
    rw [dif_pos h, this]
  · have hc : (Mem.cells blank a vs).lookup x = none := Mem.lookup_eq_none fun c hc e => by
      obtain ⟨h1, h2, -⟩ := Mem.cells_bounds hc
      omega
    rw [hc, dif_neg h]
    by_cases hx : x < a
    · have ha : ¬ a + vs.length ≤ x := by omega
      simp only [hx, ha, if_true, if_false, Option.or_none]
    · have ha : a + vs.length ≤ x := by omega
      simp only [hx, ha, if_true, if_false, Option.none_or]

theorem Mem.read_writeRun_outside (blank : Byte) (m : Mem) {a x : Nat} (vs : List Byte)
    (h : x < a ∨ a + vs.length ≤ x) : (m.writeRun blank a vs).read blank x = m.read blank x := by
  rw [Mem.read_writeRun, dif_neg (by omega)]

theorem Mem.wf_below (h : Mem.Wf blank m) (a : Nat) : Mem.Wf blank (m.below a) :=
  ⟨h.1.filter _, fun c hc => h.2 c ((List.mem_filter.1 hc).1)⟩

theorem Mem.wf_above (h : Mem.Wf blank m) (a : Nat) : Mem.Wf blank (m.above a) :=
  ⟨h.1.filter _, fun c hc => h.2 c ((List.mem_filter.1 hc).1)⟩

theorem Mem.below_lt {a : Nat} {c : Host.Cell} (h : c ∈ m.below a) : c.1 < a := by
  simpa using (List.mem_filter.1 h).2

theorem Mem.above_le {a : Nat} {c : Host.Cell} (h : c ∈ m.above a) : a ≤ c.1 := by
  simpa using (List.mem_filter.1 h).2

theorem Mem.wf_writeRun (h : Mem.Wf blank m) (a : Nat) (vs : List Byte) : Mem.Wf blank (m.writeRun blank a vs) := by
  refine ⟨List.pairwise_append.2 ⟨(Mem.wf_below h a).1, List.pairwise_append.2 ⟨Mem.cells_pairwise a vs,
    (Mem.wf_above h _).1, fun c hc d hd => ?_⟩, fun c hc d hd => ?_⟩, fun c hc => ?_⟩
  · obtain ⟨-, h2, -⟩ := Mem.cells_bounds hc
    have := Mem.above_le hd
    omega
  · have := Mem.below_lt hc
    rcases List.mem_append.1 hd with hd | hd
    · obtain ⟨h1, -, -⟩ := Mem.cells_bounds hd
      omega
    · have := Mem.above_le hd
      omega
  · rcases List.mem_append.1 hc with hc | hc
    · exact (Mem.wf_below h a).2 c hc
    · rcases List.mem_append.1 hc with hc | hc
      · exact (Mem.cells_bounds hc).2.2
      · exact (Mem.wf_above h _).2 c hc

/-! ## Erasing -/

theorem Mem.read_erase (blank : Byte) (m : Mem) (a n x : Nat) :
    (m.erase a n).read blank x = if a ≤ x ∧ x < a + n then blank else m.read blank x := by
  unfold Mem.read Mem.erase
  rw [Mem.lookup_append, Mem.lookup_below, Mem.lookup_above]
  by_cases hx : x < a
  · have h1 : ¬ a + n ≤ x := by omega
    have h2 : ¬ (a ≤ x ∧ x < a + n) := by omega
    simp [hx, h1, h2]
  · by_cases hn : x < a + n
    · have h1 : ¬ a + n ≤ x := by omega
      have h2 : a ≤ x := by omega
      simp [hx, hn, h1, h2]
    · have h1 : a + n ≤ x := by omega
      simp [hx, hn, h1]

theorem Mem.wf_erase (h : Mem.Wf blank m) (a n : Nat) : Mem.Wf blank (m.erase a n) := by
  refine ⟨List.pairwise_append.2 ⟨(Mem.wf_below h a).1, (Mem.wf_above h _).1, fun c hc d hd => ?_⟩, fun c hc => ?_⟩
  · have := Mem.below_lt hc
    have := Mem.above_le hd
    omega
  · rcases List.mem_append.1 hc with hc | hc
    · exact (Mem.wf_below h a).2 c hc
    · exact (Mem.wf_above h _).2 c hc

/-! ## Blank ranges -/

theorem Mem.mem_of_lookup {p : Mem} {x : Nat} {v : Byte} (h : p.lookup x = some v) : (x, v) ∈ p := by
  induction p with
  | nil => simp at h
  | cons c p ih =>
    obtain ⟨k, w⟩ := c
    simp only [List.lookup_cons] at h
    split at h
    · rename_i hk
      have : x = k := by simpa using hk
      cases h
      subst this
      exact List.mem_cons_self ..
    · exact List.mem_cons_of_mem _ (ih h)

theorem Mem.lookup_of_mem {p : Mem} (hp : p.Pairwise (fun a b => a.1 < b.1)) {c : Host.Cell} (h : c ∈ p) :
    p.lookup c.1 = some c.2 := by
  induction p with
  | nil => simp at h
  | cons d p ih =>
    obtain ⟨k, w⟩ := d
    obtain ⟨hd, hp⟩ := List.pairwise_cons.1 hp
    rcases List.mem_cons.1 h with rfl | h
    · simp
    · have : k < c.1 := hd c h
      have hk : (c.1 == k) = false := beq_eq_false_iff_ne.2 (by omega)
      simp only [List.lookup_cons, hk]
      exact ih hp h

/-- A range is blank exactly when each of its bytes reads as blank. -/
theorem Mem.isBlank_iff (h : Mem.Wf blank m) (a n : Nat) :
    m.isBlank blank a n = true ↔ ∀ x, a ≤ x → x < a + n → m.read blank x = blank := by
  simp only [Mem.isBlank, List.all_eq_true, decide_eq_true_eq, Mem.read]
  constructor
  · intro hb x h1 h2
    cases e : m.lookup x with
    | none => rfl
    | some v =>
      have := hb _ (Mem.mem_of_lookup e)
      rcases this with h' | h' | h'
      · exact absurd h' (by show ¬ x < a; omega)
      · exact absurd h' (by show ¬ a + n ≤ x; omega)
      · exact h'
  · intro hb c hc
    by_cases h1 : c.1 < a
    · exact .inl h1
    · by_cases h2 : a + n ≤ c.1
      · exact .inr (.inl h2)
      · have := hb c.1 (by omega) (by omega)
        rw [Mem.lookup_of_mem h.1 hc] at this
        exact .inr (.inr this)

end Sys2Proof.Machine
end

