-- ==== Sys2Proof/Laws/State.lean ====
section
/-!
SUPPORT. What each update of the state's record leaves in each field, the records kept per link and per pane, and reading a
table after a write.
-/

namespace Sys2Proof

variable {α β : Type} {n : Nat}

@[simp] theorem Table.get_set_same (t : Table α n) (i : Fin n) (v : α) : (t.set i v).get i = v := by
  exact List.getElem_set_self _

theorem Table.get_set_ne (t : Table α n) {i j : Fin n} (v : α) (h : j ≠ i) : (t.set i v).get j = t.get j := by
  have h' : (i : Nat) ≠ j := fun e => h (Fin.ext e.symm)
  exact List.getElem_set_ne h' _

theorem Table.get_set (t : Table α n) (i j : Fin n) (v : α) :
    (t.set i v).get j = if j = i then v else t.get j := by
  split
  · rename_i h; subst h; simp
  · rename_i h; exact Table.get_set_ne t v h

@[simp] theorem Table.get_update_same (t : Table α n) (i : Fin n) (f : α → α) :
    (t.update i f).get i = f (t.get i) := by simp [Table.update]

theorem Table.get_update_ne (t : Table α n) {i j : Fin n} (f : α → α) (h : j ≠ i) :
    (t.update i f).get j = t.get j := by simp [Table.update, Table.get_set_ne t _ h]

@[simp] theorem Table.get_map (f : α → β) (t : Table α n) (i : Fin n) : (t.map f).get i = f (t.get i) := by
  exact List.getElem_map ..

@[simp] theorem Table.get_tabulate (f : Fin n → α) (i : Fin n) : (Table.tabulate n f).get i = f i := by
  exact (List.getElem_map ..).trans (congrArg f (List.getElem_finRange _))

@[simp] theorem Table.get_replicate (v : α) (i : Fin n) : (Table.replicate n v).get i = v := by
  simp [Table.get, Table.replicate]

theorem Table.ext_get {t u : Table α n} (h : ∀ i, t.get i = u.get i) : t = u := by
  obtain ⟨a, ha⟩ := t
  obtain ⟨b, hb⟩ := u
  have : a = b := by
    apply List.ext_getElem (by rw [ha, hb])
    intro i h1 h2
    exact h ⟨i, ha ▸ h1⟩
  subst this
  rfl

theorem Table.mem_data {t : Table α n} {v : α} (h : v ∈ t.data) : ∃ i, t.get i = v := by
  obtain ⟨i, hi, e⟩ := List.getElem_of_mem h
  exact ⟨⟨i, t.size ▸ hi⟩, e⟩

theorem Table.get_mem (t : Table α n) (i : Fin n) : t.get i ∈ t.data := List.get_mem _ _

namespace Machine

@[simp] theorem PerLink.get_set_same {α : Type} (p : PerLink α) (l : Link) (v : α) : (p.set l v).get l = v := by
  cases l <;> rfl

@[simp] theorem PerLink.get_set_other {α : Type} (p : PerLink α) (l : Link) (v : α) :
    (p.set l v).get (otherLink l) = p.get (otherLink l) := by cases l <;> rfl

@[simp] theorem PerLink.get_other_set {α : Type} (p : PerLink α) (l : Link) (v : α) :
    (p.set (otherLink l) v).get l = p.get l := by cases l <;> rfl

@[simp] theorem otherLink_otherLink (l : Link) : otherLink (otherLink l) = l := by cases l <;> rfl

theorem otherLink_ne (l : Link) : otherLink l ≠ l := by cases l <;> decide

theorem PerLink.get_set_ne {α : Type} (p : PerLink α) {l m : Link} (v : α) (h : m ≠ l) : (p.set l v).get m = p.get m := by
  cases l <;> cases m <;> first | rfl | exact absurd rfl h

@[simp] theorem PerPane.get_set_same {α : Type} (p : PerPane α) (q : Pane) (v : α) : (p.set q v).get q = v := by
  cases q <;> rfl

theorem PerPane.get_set_ne {α : Type} (p : PerPane α) {q r : Pane} (v : α) (h : r ≠ q) : (p.set q v).get r = p.get r := by
  cases q <;> cases r <;> first | rfl | exact absurd rfl h

@[simp] theorem withStarting_starting (s : State) (v : Bool) : (s.withStarting v).starting = v := rfl
@[simp] theorem withStarting_intake (s : State) (v : Bool) : (s.withStarting v).intake = s.intake := rfl
@[simp] theorem withStarting_ring (s : State) (v : Bool) : (s.withStarting v).ring = s.ring := rfl
@[simp] theorem withStarting_cond (s : State) (v : Bool) : (s.withStarting v).cond = s.cond := rfl
@[simp] theorem withStarting_view (s : State) (v : Bool) : (s.withStarting v).view = s.view := rfl
@[simp] theorem withStarting_comp (s : State) (v : Bool) : (s.withStarting v).comp = s.comp := rfl
@[simp] theorem withStarting_guard (s : State) (v : Bool) : (s.withStarting v).guard = s.guard := rfl
@[simp] theorem withStarting_store (s : State) (v : Bool) : (s.withStarting v).store = s.store := rfl
@[simp] theorem withStarting_mover (s : State) (v : Bool) : (s.withStarting v).mover = s.mover := rfl
@[simp] theorem withStarting_arch (s : State) (v : Bool) : (s.withStarting v).arch = s.arch := rfl
@[simp] theorem withStarting_port (s : State) (v : Bool) : (s.withStarting v).port = s.port := rfl
@[simp] theorem withStarting_flash (s : State) (v : Bool) : (s.withStarting v).flash = s.flash := rfl
@[simp] theorem withStarting_links (s : State) (v : Bool) : (s.withStarting v).links = s.links := rfl
@[simp] theorem withStarting_faults (s : State) (v : Bool) : (s.withStarting v).faults = s.faults := rfl
@[simp] theorem withStarting_freeCount (s : State) (v : Bool) : (s.withStarting v).freeCount = s.freeCount := rfl
@[simp] theorem withStarting_pending (s : State) (v : Bool) : (s.withStarting v).pending = s.pending := rfl

@[simp] theorem withIntake_starting (s : State) (v : Intake) : (s.withIntake v).starting = s.starting := rfl
@[simp] theorem withIntake_intake (s : State) (v : Intake) : (s.withIntake v).intake = v := rfl
@[simp] theorem withIntake_ring (s : State) (v : Intake) : (s.withIntake v).ring = s.ring := rfl
@[simp] theorem withIntake_cond (s : State) (v : Intake) : (s.withIntake v).cond = s.cond := rfl
@[simp] theorem withIntake_view (s : State) (v : Intake) : (s.withIntake v).view = s.view := rfl
@[simp] theorem withIntake_comp (s : State) (v : Intake) : (s.withIntake v).comp = s.comp := rfl
@[simp] theorem withIntake_guard (s : State) (v : Intake) : (s.withIntake v).guard = s.guard := rfl
@[simp] theorem withIntake_store (s : State) (v : Intake) : (s.withIntake v).store = s.store := rfl
@[simp] theorem withIntake_mover (s : State) (v : Intake) : (s.withIntake v).mover = s.mover := rfl
@[simp] theorem withIntake_arch (s : State) (v : Intake) : (s.withIntake v).arch = s.arch := rfl
@[simp] theorem withIntake_port (s : State) (v : Intake) : (s.withIntake v).port = s.port := rfl
@[simp] theorem withIntake_flash (s : State) (v : Intake) : (s.withIntake v).flash = s.flash := rfl
@[simp] theorem withIntake_links (s : State) (v : Intake) : (s.withIntake v).links = s.links := rfl
@[simp] theorem withIntake_faults (s : State) (v : Intake) : (s.withIntake v).faults = s.faults := rfl
@[simp] theorem withIntake_freeCount (s : State) (v : Intake) : (s.withIntake v).freeCount = s.freeCount := rfl
@[simp] theorem withIntake_pending (s : State) (v : Intake) : (s.withIntake v).pending = s.pending := rfl

@[simp] theorem withRing_starting (s : State) (v : Ring) : (s.withRing v).starting = s.starting := rfl
@[simp] theorem withRing_intake (s : State) (v : Ring) : (s.withRing v).intake = s.intake := rfl
@[simp] theorem withRing_ring (s : State) (v : Ring) : (s.withRing v).ring = v := rfl
@[simp] theorem withRing_cond (s : State) (v : Ring) : (s.withRing v).cond = s.cond := rfl
@[simp] theorem withRing_view (s : State) (v : Ring) : (s.withRing v).view = s.view := rfl
@[simp] theorem withRing_comp (s : State) (v : Ring) : (s.withRing v).comp = s.comp := rfl
@[simp] theorem withRing_guard (s : State) (v : Ring) : (s.withRing v).guard = s.guard := rfl
@[simp] theorem withRing_store (s : State) (v : Ring) : (s.withRing v).store = s.store := rfl
@[simp] theorem withRing_mover (s : State) (v : Ring) : (s.withRing v).mover = s.mover := rfl
@[simp] theorem withRing_arch (s : State) (v : Ring) : (s.withRing v).arch = s.arch := rfl
@[simp] theorem withRing_port (s : State) (v : Ring) : (s.withRing v).port = s.port := rfl
@[simp] theorem withRing_flash (s : State) (v : Ring) : (s.withRing v).flash = s.flash := rfl
@[simp] theorem withRing_links (s : State) (v : Ring) : (s.withRing v).links = s.links := rfl
@[simp] theorem withRing_faults (s : State) (v : Ring) : (s.withRing v).faults = s.faults := rfl
@[simp] theorem withRing_freeCount (s : State) (v : Ring) : (s.withRing v).freeCount = s.freeCount := rfl
@[simp] theorem withRing_pending (s : State) (v : Ring) : (s.withRing v).pending = s.pending := rfl

@[simp] theorem withCond_starting (s : State) (v : Conditioner) : (s.withCond v).starting = s.starting := rfl
@[simp] theorem withCond_intake (s : State) (v : Conditioner) : (s.withCond v).intake = s.intake := rfl
@[simp] theorem withCond_ring (s : State) (v : Conditioner) : (s.withCond v).ring = s.ring := rfl
@[simp] theorem withCond_cond (s : State) (v : Conditioner) : (s.withCond v).cond = v := rfl
@[simp] theorem withCond_view (s : State) (v : Conditioner) : (s.withCond v).view = s.view := rfl
@[simp] theorem withCond_comp (s : State) (v : Conditioner) : (s.withCond v).comp = s.comp := rfl
@[simp] theorem withCond_guard (s : State) (v : Conditioner) : (s.withCond v).guard = s.guard := rfl
@[simp] theorem withCond_store (s : State) (v : Conditioner) : (s.withCond v).store = s.store := rfl
@[simp] theorem withCond_mover (s : State) (v : Conditioner) : (s.withCond v).mover = s.mover := rfl
@[simp] theorem withCond_arch (s : State) (v : Conditioner) : (s.withCond v).arch = s.arch := rfl
@[simp] theorem withCond_port (s : State) (v : Conditioner) : (s.withCond v).port = s.port := rfl
@[simp] theorem withCond_flash (s : State) (v : Conditioner) : (s.withCond v).flash = s.flash := rfl
@[simp] theorem withCond_links (s : State) (v : Conditioner) : (s.withCond v).links = s.links := rfl
@[simp] theorem withCond_faults (s : State) (v : Conditioner) : (s.withCond v).faults = s.faults := rfl
@[simp] theorem withCond_freeCount (s : State) (v : Conditioner) : (s.withCond v).freeCount = s.freeCount := rfl
@[simp] theorem withCond_pending (s : State) (v : Conditioner) : (s.withCond v).pending = s.pending := rfl

@[simp] theorem withView_starting (s : State) (v : ViewUnit) : (s.withView v).starting = s.starting := rfl
@[simp] theorem withView_intake (s : State) (v : ViewUnit) : (s.withView v).intake = s.intake := rfl
@[simp] theorem withView_ring (s : State) (v : ViewUnit) : (s.withView v).ring = s.ring := rfl
@[simp] theorem withView_cond (s : State) (v : ViewUnit) : (s.withView v).cond = s.cond := rfl
@[simp] theorem withView_view (s : State) (v : ViewUnit) : (s.withView v).view = v := rfl
@[simp] theorem withView_comp (s : State) (v : ViewUnit) : (s.withView v).comp = s.comp := rfl
@[simp] theorem withView_guard (s : State) (v : ViewUnit) : (s.withView v).guard = s.guard := rfl
@[simp] theorem withView_store (s : State) (v : ViewUnit) : (s.withView v).store = s.store := rfl
@[simp] theorem withView_mover (s : State) (v : ViewUnit) : (s.withView v).mover = s.mover := rfl
@[simp] theorem withView_arch (s : State) (v : ViewUnit) : (s.withView v).arch = s.arch := rfl
@[simp] theorem withView_port (s : State) (v : ViewUnit) : (s.withView v).port = s.port := rfl
@[simp] theorem withView_flash (s : State) (v : ViewUnit) : (s.withView v).flash = s.flash := rfl
@[simp] theorem withView_links (s : State) (v : ViewUnit) : (s.withView v).links = s.links := rfl
@[simp] theorem withView_faults (s : State) (v : ViewUnit) : (s.withView v).faults = s.faults := rfl
@[simp] theorem withView_freeCount (s : State) (v : ViewUnit) : (s.withView v).freeCount = s.freeCount := rfl
@[simp] theorem withView_pending (s : State) (v : ViewUnit) : (s.withView v).pending = s.pending := rfl

@[simp] theorem withComp_starting (s : State) (v : Compositor) : (s.withComp v).starting = s.starting := rfl
@[simp] theorem withComp_intake (s : State) (v : Compositor) : (s.withComp v).intake = s.intake := rfl
@[simp] theorem withComp_ring (s : State) (v : Compositor) : (s.withComp v).ring = s.ring := rfl
@[simp] theorem withComp_cond (s : State) (v : Compositor) : (s.withComp v).cond = s.cond := rfl
@[simp] theorem withComp_view (s : State) (v : Compositor) : (s.withComp v).view = s.view := rfl
@[simp] theorem withComp_comp (s : State) (v : Compositor) : (s.withComp v).comp = v := rfl
@[simp] theorem withComp_guard (s : State) (v : Compositor) : (s.withComp v).guard = s.guard := rfl
@[simp] theorem withComp_store (s : State) (v : Compositor) : (s.withComp v).store = s.store := rfl
@[simp] theorem withComp_mover (s : State) (v : Compositor) : (s.withComp v).mover = s.mover := rfl
@[simp] theorem withComp_arch (s : State) (v : Compositor) : (s.withComp v).arch = s.arch := rfl
@[simp] theorem withComp_port (s : State) (v : Compositor) : (s.withComp v).port = s.port := rfl
@[simp] theorem withComp_flash (s : State) (v : Compositor) : (s.withComp v).flash = s.flash := rfl
@[simp] theorem withComp_links (s : State) (v : Compositor) : (s.withComp v).links = s.links := rfl
@[simp] theorem withComp_faults (s : State) (v : Compositor) : (s.withComp v).faults = s.faults := rfl
@[simp] theorem withComp_freeCount (s : State) (v : Compositor) : (s.withComp v).freeCount = s.freeCount := rfl
@[simp] theorem withComp_pending (s : State) (v : Compositor) : (s.withComp v).pending = s.pending := rfl

@[simp] theorem withGuard_starting (s : State) (v : Guard) : (s.withGuard v).starting = s.starting := rfl
@[simp] theorem withGuard_intake (s : State) (v : Guard) : (s.withGuard v).intake = s.intake := rfl
@[simp] theorem withGuard_ring (s : State) (v : Guard) : (s.withGuard v).ring = s.ring := rfl
@[simp] theorem withGuard_cond (s : State) (v : Guard) : (s.withGuard v).cond = s.cond := rfl
@[simp] theorem withGuard_view (s : State) (v : Guard) : (s.withGuard v).view = s.view := rfl
@[simp] theorem withGuard_comp (s : State) (v : Guard) : (s.withGuard v).comp = s.comp := rfl
@[simp] theorem withGuard_guard (s : State) (v : Guard) : (s.withGuard v).guard = v := rfl
@[simp] theorem withGuard_store (s : State) (v : Guard) : (s.withGuard v).store = s.store := rfl
@[simp] theorem withGuard_mover (s : State) (v : Guard) : (s.withGuard v).mover = s.mover := rfl
@[simp] theorem withGuard_arch (s : State) (v : Guard) : (s.withGuard v).arch = s.arch := rfl
@[simp] theorem withGuard_port (s : State) (v : Guard) : (s.withGuard v).port = s.port := rfl
@[simp] theorem withGuard_flash (s : State) (v : Guard) : (s.withGuard v).flash = s.flash := rfl
@[simp] theorem withGuard_links (s : State) (v : Guard) : (s.withGuard v).links = s.links := rfl
@[simp] theorem withGuard_faults (s : State) (v : Guard) : (s.withGuard v).faults = s.faults := rfl
@[simp] theorem withGuard_freeCount (s : State) (v : Guard) : (s.withGuard v).freeCount = s.freeCount := rfl
@[simp] theorem withGuard_pending (s : State) (v : Guard) : (s.withGuard v).pending = s.pending := rfl

@[simp] theorem withStore_starting (s : State) (v : PageStore) : (s.withStore v).starting = s.starting := rfl
@[simp] theorem withStore_intake (s : State) (v : PageStore) : (s.withStore v).intake = s.intake := rfl
@[simp] theorem withStore_ring (s : State) (v : PageStore) : (s.withStore v).ring = s.ring := rfl
@[simp] theorem withStore_cond (s : State) (v : PageStore) : (s.withStore v).cond = s.cond := rfl
@[simp] theorem withStore_view (s : State) (v : PageStore) : (s.withStore v).view = s.view := rfl
@[simp] theorem withStore_comp (s : State) (v : PageStore) : (s.withStore v).comp = s.comp := rfl
@[simp] theorem withStore_guard (s : State) (v : PageStore) : (s.withStore v).guard = s.guard := rfl
@[simp] theorem withStore_store (s : State) (v : PageStore) : (s.withStore v).store = v := rfl
@[simp] theorem withStore_mover (s : State) (v : PageStore) : (s.withStore v).mover = s.mover := rfl
@[simp] theorem withStore_arch (s : State) (v : PageStore) : (s.withStore v).arch = s.arch := rfl
@[simp] theorem withStore_port (s : State) (v : PageStore) : (s.withStore v).port = s.port := rfl
@[simp] theorem withStore_flash (s : State) (v : PageStore) : (s.withStore v).flash = s.flash := rfl
@[simp] theorem withStore_links (s : State) (v : PageStore) : (s.withStore v).links = s.links := rfl
@[simp] theorem withStore_faults (s : State) (v : PageStore) : (s.withStore v).faults = s.faults := rfl
@[simp] theorem withStore_freeCount (s : State) (v : PageStore) : (s.withStore v).freeCount = s.freeCount := rfl
@[simp] theorem withStore_pending (s : State) (v : PageStore) : (s.withStore v).pending = s.pending := rfl

@[simp] theorem withMover_starting (s : State) (v : Mover) : (s.withMover v).starting = s.starting := rfl
@[simp] theorem withMover_intake (s : State) (v : Mover) : (s.withMover v).intake = s.intake := rfl
@[simp] theorem withMover_ring (s : State) (v : Mover) : (s.withMover v).ring = s.ring := rfl
@[simp] theorem withMover_cond (s : State) (v : Mover) : (s.withMover v).cond = s.cond := rfl
@[simp] theorem withMover_view (s : State) (v : Mover) : (s.withMover v).view = s.view := rfl
@[simp] theorem withMover_comp (s : State) (v : Mover) : (s.withMover v).comp = s.comp := rfl
@[simp] theorem withMover_guard (s : State) (v : Mover) : (s.withMover v).guard = s.guard := rfl
@[simp] theorem withMover_store (s : State) (v : Mover) : (s.withMover v).store = s.store := rfl
@[simp] theorem withMover_mover (s : State) (v : Mover) : (s.withMover v).mover = v := rfl
@[simp] theorem withMover_arch (s : State) (v : Mover) : (s.withMover v).arch = s.arch := rfl
@[simp] theorem withMover_port (s : State) (v : Mover) : (s.withMover v).port = s.port := rfl
@[simp] theorem withMover_flash (s : State) (v : Mover) : (s.withMover v).flash = s.flash := rfl
@[simp] theorem withMover_links (s : State) (v : Mover) : (s.withMover v).links = s.links := rfl
@[simp] theorem withMover_faults (s : State) (v : Mover) : (s.withMover v).faults = s.faults := rfl
@[simp] theorem withMover_freeCount (s : State) (v : Mover) : (s.withMover v).freeCount = s.freeCount := rfl
@[simp] theorem withMover_pending (s : State) (v : Mover) : (s.withMover v).pending = s.pending := rfl

@[simp] theorem withArch_starting (s : State) (v : Archive) : (s.withArch v).starting = s.starting := rfl
@[simp] theorem withArch_intake (s : State) (v : Archive) : (s.withArch v).intake = s.intake := rfl
@[simp] theorem withArch_ring (s : State) (v : Archive) : (s.withArch v).ring = s.ring := rfl
@[simp] theorem withArch_cond (s : State) (v : Archive) : (s.withArch v).cond = s.cond := rfl
@[simp] theorem withArch_view (s : State) (v : Archive) : (s.withArch v).view = s.view := rfl
@[simp] theorem withArch_comp (s : State) (v : Archive) : (s.withArch v).comp = s.comp := rfl
@[simp] theorem withArch_guard (s : State) (v : Archive) : (s.withArch v).guard = s.guard := rfl
@[simp] theorem withArch_store (s : State) (v : Archive) : (s.withArch v).store = s.store := rfl
@[simp] theorem withArch_mover (s : State) (v : Archive) : (s.withArch v).mover = s.mover := rfl
@[simp] theorem withArch_arch (s : State) (v : Archive) : (s.withArch v).arch = v := rfl
@[simp] theorem withArch_port (s : State) (v : Archive) : (s.withArch v).port = s.port := rfl
@[simp] theorem withArch_flash (s : State) (v : Archive) : (s.withArch v).flash = s.flash := rfl
@[simp] theorem withArch_links (s : State) (v : Archive) : (s.withArch v).links = s.links := rfl
@[simp] theorem withArch_faults (s : State) (v : Archive) : (s.withArch v).faults = s.faults := rfl
@[simp] theorem withArch_freeCount (s : State) (v : Archive) : (s.withArch v).freeCount = s.freeCount := rfl
@[simp] theorem withArch_pending (s : State) (v : Archive) : (s.withArch v).pending = s.pending := rfl

@[simp] theorem withPort_starting (s : State) (v : FlashPort) : (s.withPort v).starting = s.starting := rfl
@[simp] theorem withPort_intake (s : State) (v : FlashPort) : (s.withPort v).intake = s.intake := rfl
@[simp] theorem withPort_ring (s : State) (v : FlashPort) : (s.withPort v).ring = s.ring := rfl
@[simp] theorem withPort_cond (s : State) (v : FlashPort) : (s.withPort v).cond = s.cond := rfl
@[simp] theorem withPort_view (s : State) (v : FlashPort) : (s.withPort v).view = s.view := rfl
@[simp] theorem withPort_comp (s : State) (v : FlashPort) : (s.withPort v).comp = s.comp := rfl
@[simp] theorem withPort_guard (s : State) (v : FlashPort) : (s.withPort v).guard = s.guard := rfl
@[simp] theorem withPort_store (s : State) (v : FlashPort) : (s.withPort v).store = s.store := rfl
@[simp] theorem withPort_mover (s : State) (v : FlashPort) : (s.withPort v).mover = s.mover := rfl
@[simp] theorem withPort_arch (s : State) (v : FlashPort) : (s.withPort v).arch = s.arch := rfl
@[simp] theorem withPort_port (s : State) (v : FlashPort) : (s.withPort v).port = v := rfl
@[simp] theorem withPort_flash (s : State) (v : FlashPort) : (s.withPort v).flash = s.flash := rfl
@[simp] theorem withPort_links (s : State) (v : FlashPort) : (s.withPort v).links = s.links := rfl
@[simp] theorem withPort_faults (s : State) (v : FlashPort) : (s.withPort v).faults = s.faults := rfl
@[simp] theorem withPort_freeCount (s : State) (v : FlashPort) : (s.withPort v).freeCount = s.freeCount := rfl
@[simp] theorem withPort_pending (s : State) (v : FlashPort) : (s.withPort v).pending = s.pending := rfl

@[simp] theorem withFlash_starting (s : State) (v : Mem) : (s.withFlash v).starting = s.starting := rfl
@[simp] theorem withFlash_intake (s : State) (v : Mem) : (s.withFlash v).intake = s.intake := rfl
@[simp] theorem withFlash_ring (s : State) (v : Mem) : (s.withFlash v).ring = s.ring := rfl
@[simp] theorem withFlash_cond (s : State) (v : Mem) : (s.withFlash v).cond = s.cond := rfl
@[simp] theorem withFlash_view (s : State) (v : Mem) : (s.withFlash v).view = s.view := rfl
@[simp] theorem withFlash_comp (s : State) (v : Mem) : (s.withFlash v).comp = s.comp := rfl
@[simp] theorem withFlash_guard (s : State) (v : Mem) : (s.withFlash v).guard = s.guard := rfl
@[simp] theorem withFlash_store (s : State) (v : Mem) : (s.withFlash v).store = s.store := rfl
@[simp] theorem withFlash_mover (s : State) (v : Mem) : (s.withFlash v).mover = s.mover := rfl
@[simp] theorem withFlash_arch (s : State) (v : Mem) : (s.withFlash v).arch = s.arch := rfl
@[simp] theorem withFlash_port (s : State) (v : Mem) : (s.withFlash v).port = s.port := rfl
@[simp] theorem withFlash_flash (s : State) (v : Mem) : (s.withFlash v).flash = v := rfl
@[simp] theorem withFlash_links (s : State) (v : Mem) : (s.withFlash v).links = s.links := rfl
@[simp] theorem withFlash_faults (s : State) (v : Mem) : (s.withFlash v).faults = s.faults := rfl
@[simp] theorem withFlash_freeCount (s : State) (v : Mem) : (s.withFlash v).freeCount = s.freeCount := rfl
@[simp] theorem withFlash_pending (s : State) (v : Mem) : (s.withFlash v).pending = s.pending := rfl

@[simp] theorem withLinks_starting (s : State) (v : PerLink LinkState) : (s.withLinks v).starting = s.starting := rfl
@[simp] theorem withLinks_intake (s : State) (v : PerLink LinkState) : (s.withLinks v).intake = s.intake := rfl
@[simp] theorem withLinks_ring (s : State) (v : PerLink LinkState) : (s.withLinks v).ring = s.ring := rfl
@[simp] theorem withLinks_cond (s : State) (v : PerLink LinkState) : (s.withLinks v).cond = s.cond := rfl
@[simp] theorem withLinks_view (s : State) (v : PerLink LinkState) : (s.withLinks v).view = s.view := rfl
@[simp] theorem withLinks_comp (s : State) (v : PerLink LinkState) : (s.withLinks v).comp = s.comp := rfl
@[simp] theorem withLinks_guard (s : State) (v : PerLink LinkState) : (s.withLinks v).guard = s.guard := rfl
@[simp] theorem withLinks_store (s : State) (v : PerLink LinkState) : (s.withLinks v).store = s.store := rfl
@[simp] theorem withLinks_mover (s : State) (v : PerLink LinkState) : (s.withLinks v).mover = s.mover := rfl
@[simp] theorem withLinks_arch (s : State) (v : PerLink LinkState) : (s.withLinks v).arch = s.arch := rfl
@[simp] theorem withLinks_port (s : State) (v : PerLink LinkState) : (s.withLinks v).port = s.port := rfl
@[simp] theorem withLinks_flash (s : State) (v : PerLink LinkState) : (s.withLinks v).flash = s.flash := rfl
@[simp] theorem withLinks_links (s : State) (v : PerLink LinkState) : (s.withLinks v).links = v := rfl
@[simp] theorem withLinks_faults (s : State) (v : PerLink LinkState) : (s.withLinks v).faults = s.faults := rfl
@[simp] theorem withLinks_freeCount (s : State) (v : PerLink LinkState) : (s.withLinks v).freeCount = s.freeCount := rfl
@[simp] theorem withLinks_pending (s : State) (v : PerLink LinkState) : (s.withLinks v).pending = s.pending := rfl

@[simp] theorem withFaults_starting (s : State) (v : Faults) : (s.withFaults v).starting = s.starting := rfl
@[simp] theorem withFaults_intake (s : State) (v : Faults) : (s.withFaults v).intake = s.intake := rfl
@[simp] theorem withFaults_ring (s : State) (v : Faults) : (s.withFaults v).ring = s.ring := rfl
@[simp] theorem withFaults_cond (s : State) (v : Faults) : (s.withFaults v).cond = s.cond := rfl
@[simp] theorem withFaults_view (s : State) (v : Faults) : (s.withFaults v).view = s.view := rfl
@[simp] theorem withFaults_comp (s : State) (v : Faults) : (s.withFaults v).comp = s.comp := rfl
@[simp] theorem withFaults_guard (s : State) (v : Faults) : (s.withFaults v).guard = s.guard := rfl
@[simp] theorem withFaults_store (s : State) (v : Faults) : (s.withFaults v).store = s.store := rfl
@[simp] theorem withFaults_mover (s : State) (v : Faults) : (s.withFaults v).mover = s.mover := rfl
@[simp] theorem withFaults_arch (s : State) (v : Faults) : (s.withFaults v).arch = s.arch := rfl
@[simp] theorem withFaults_port (s : State) (v : Faults) : (s.withFaults v).port = s.port := rfl
@[simp] theorem withFaults_flash (s : State) (v : Faults) : (s.withFaults v).flash = s.flash := rfl
@[simp] theorem withFaults_links (s : State) (v : Faults) : (s.withFaults v).links = s.links := rfl
@[simp] theorem withFaults_faults (s : State) (v : Faults) : (s.withFaults v).faults = v := rfl
@[simp] theorem withFaults_freeCount (s : State) (v : Faults) : (s.withFaults v).freeCount = s.freeCount := rfl
@[simp] theorem withFaults_pending (s : State) (v : Faults) : (s.withFaults v).pending = s.pending := rfl

@[simp] theorem withFreeCount_starting (s : State) (v : Nat) : (s.withFreeCount v).starting = s.starting := rfl
@[simp] theorem withFreeCount_intake (s : State) (v : Nat) : (s.withFreeCount v).intake = s.intake := rfl
@[simp] theorem withFreeCount_ring (s : State) (v : Nat) : (s.withFreeCount v).ring = s.ring := rfl
@[simp] theorem withFreeCount_cond (s : State) (v : Nat) : (s.withFreeCount v).cond = s.cond := rfl
@[simp] theorem withFreeCount_view (s : State) (v : Nat) : (s.withFreeCount v).view = s.view := rfl
@[simp] theorem withFreeCount_comp (s : State) (v : Nat) : (s.withFreeCount v).comp = s.comp := rfl
@[simp] theorem withFreeCount_guard (s : State) (v : Nat) : (s.withFreeCount v).guard = s.guard := rfl
@[simp] theorem withFreeCount_store (s : State) (v : Nat) : (s.withFreeCount v).store = s.store := rfl
@[simp] theorem withFreeCount_mover (s : State) (v : Nat) : (s.withFreeCount v).mover = s.mover := rfl
@[simp] theorem withFreeCount_arch (s : State) (v : Nat) : (s.withFreeCount v).arch = s.arch := rfl
@[simp] theorem withFreeCount_port (s : State) (v : Nat) : (s.withFreeCount v).port = s.port := rfl
@[simp] theorem withFreeCount_flash (s : State) (v : Nat) : (s.withFreeCount v).flash = s.flash := rfl
@[simp] theorem withFreeCount_links (s : State) (v : Nat) : (s.withFreeCount v).links = s.links := rfl
@[simp] theorem withFreeCount_faults (s : State) (v : Nat) : (s.withFreeCount v).faults = s.faults := rfl
@[simp] theorem withFreeCount_freeCount (s : State) (v : Nat) : (s.withFreeCount v).freeCount = v := rfl
@[simp] theorem withFreeCount_pending (s : State) (v : Nat) : (s.withFreeCount v).pending = s.pending := rfl

@[simp] theorem withPending_starting (s : State) (v : List Instr) : (s.withPending v).starting = s.starting := rfl
@[simp] theorem withPending_intake (s : State) (v : List Instr) : (s.withPending v).intake = s.intake := rfl
@[simp] theorem withPending_ring (s : State) (v : List Instr) : (s.withPending v).ring = s.ring := rfl
@[simp] theorem withPending_cond (s : State) (v : List Instr) : (s.withPending v).cond = s.cond := rfl
@[simp] theorem withPending_view (s : State) (v : List Instr) : (s.withPending v).view = s.view := rfl
@[simp] theorem withPending_comp (s : State) (v : List Instr) : (s.withPending v).comp = s.comp := rfl
@[simp] theorem withPending_guard (s : State) (v : List Instr) : (s.withPending v).guard = s.guard := rfl
@[simp] theorem withPending_store (s : State) (v : List Instr) : (s.withPending v).store = s.store := rfl
@[simp] theorem withPending_mover (s : State) (v : List Instr) : (s.withPending v).mover = s.mover := rfl
@[simp] theorem withPending_arch (s : State) (v : List Instr) : (s.withPending v).arch = s.arch := rfl
@[simp] theorem withPending_port (s : State) (v : List Instr) : (s.withPending v).port = s.port := rfl
@[simp] theorem withPending_flash (s : State) (v : List Instr) : (s.withPending v).flash = s.flash := rfl
@[simp] theorem withPending_links (s : State) (v : List Instr) : (s.withPending v).links = s.links := rfl
@[simp] theorem withPending_faults (s : State) (v : List Instr) : (s.withPending v).faults = s.faults := rfl
@[simp] theorem withPending_freeCount (s : State) (v : List Instr) : (s.withPending v).freeCount = s.freeCount := rfl
@[simp] theorem withPending_pending (s : State) (v : List Instr) : (s.withPending v).pending = v := rfl

@[simp] theorem setLink_starting (s : State) (l : Link) (v : LinkState) : (s.setLink l v).starting = s.starting := rfl
@[simp] theorem setLink_intake (s : State) (l : Link) (v : LinkState) : (s.setLink l v).intake = s.intake := rfl
@[simp] theorem setLink_ring (s : State) (l : Link) (v : LinkState) : (s.setLink l v).ring = s.ring := rfl
@[simp] theorem setLink_cond (s : State) (l : Link) (v : LinkState) : (s.setLink l v).cond = s.cond := rfl
@[simp] theorem setLink_view (s : State) (l : Link) (v : LinkState) : (s.setLink l v).view = s.view := rfl
@[simp] theorem setLink_comp (s : State) (l : Link) (v : LinkState) : (s.setLink l v).comp = s.comp := rfl
@[simp] theorem setLink_guard (s : State) (l : Link) (v : LinkState) : (s.setLink l v).guard = s.guard := rfl
@[simp] theorem setLink_store (s : State) (l : Link) (v : LinkState) : (s.setLink l v).store = s.store := rfl
@[simp] theorem setLink_mover (s : State) (l : Link) (v : LinkState) : (s.setLink l v).mover = s.mover := rfl
@[simp] theorem setLink_arch (s : State) (l : Link) (v : LinkState) : (s.setLink l v).arch = s.arch := rfl
@[simp] theorem setLink_port (s : State) (l : Link) (v : LinkState) : (s.setLink l v).port = s.port := rfl
@[simp] theorem setLink_flash (s : State) (l : Link) (v : LinkState) : (s.setLink l v).flash = s.flash := rfl
@[simp] theorem setLink_faults (s : State) (l : Link) (v : LinkState) : (s.setLink l v).faults = s.faults := rfl
@[simp] theorem setLink_freeCount (s : State) (l : Link) (v : LinkState) : (s.setLink l v).freeCount = s.freeCount := rfl
@[simp] theorem setLink_pending (s : State) (l : Link) (v : LinkState) : (s.setLink l v).pending = s.pending := rfl

@[simp] theorem setLink_links (s : State) (l : Link) (v : LinkState) : (s.setLink l v).links = s.links.set l v := rfl

@[simp] theorem setTransaction_starting (s : State) (l : Link) (t : Option Transaction) : (s.setTransaction l t).starting = s.starting := rfl
@[simp] theorem setTransaction_intake (s : State) (l : Link) (t : Option Transaction) : (s.setTransaction l t).intake = s.intake := rfl
@[simp] theorem setTransaction_ring (s : State) (l : Link) (t : Option Transaction) : (s.setTransaction l t).ring = s.ring := rfl
@[simp] theorem setTransaction_cond (s : State) (l : Link) (t : Option Transaction) : (s.setTransaction l t).cond = s.cond := rfl
@[simp] theorem setTransaction_view (s : State) (l : Link) (t : Option Transaction) : (s.setTransaction l t).view = s.view := rfl
@[simp] theorem setTransaction_comp (s : State) (l : Link) (t : Option Transaction) : (s.setTransaction l t).comp = s.comp := rfl
@[simp] theorem setTransaction_guard (s : State) (l : Link) (t : Option Transaction) : (s.setTransaction l t).guard = s.guard := rfl
@[simp] theorem setTransaction_store (s : State) (l : Link) (t : Option Transaction) : (s.setTransaction l t).store = s.store := rfl
@[simp] theorem setTransaction_mover (s : State) (l : Link) (t : Option Transaction) : (s.setTransaction l t).mover = s.mover := rfl
@[simp] theorem setTransaction_arch (s : State) (l : Link) (t : Option Transaction) : (s.setTransaction l t).arch = s.arch := rfl
@[simp] theorem setTransaction_port (s : State) (l : Link) (t : Option Transaction) : (s.setTransaction l t).port = s.port := rfl
@[simp] theorem setTransaction_flash (s : State) (l : Link) (t : Option Transaction) : (s.setTransaction l t).flash = s.flash := rfl
@[simp] theorem setTransaction_faults (s : State) (l : Link) (t : Option Transaction) : (s.setTransaction l t).faults = s.faults := rfl
@[simp] theorem setTransaction_freeCount (s : State) (l : Link) (t : Option Transaction) : (s.setTransaction l t).freeCount = s.freeCount := rfl
@[simp] theorem setTransaction_pending (s : State) (l : Link) (t : Option Transaction) : (s.setTransaction l t).pending = s.pending := rfl

@[simp] theorem setTransaction_links (s : State) (l : Link) (t : Option Transaction) :
    (s.setTransaction l t).links = s.links.set l { s.links.get l with transaction := t } := rfl

@[simp] theorem draw_starting (s : State) : s.draw.starting = s.starting := rfl
@[simp] theorem draw_intake (s : State) : s.draw.intake = s.intake := rfl
@[simp] theorem draw_ring (s : State) : s.draw.ring = s.ring := rfl
@[simp] theorem draw_cond (s : State) : s.draw.cond = s.cond := rfl
@[simp] theorem draw_view (s : State) : s.draw.view = s.view := rfl
@[simp] theorem draw_comp (s : State) : s.draw.comp = s.comp := rfl
@[simp] theorem draw_guard (s : State) : s.draw.guard = s.guard := rfl
@[simp] theorem draw_store (s : State) : s.draw.store = s.store := rfl
@[simp] theorem draw_mover (s : State) : s.draw.mover = s.mover := rfl
@[simp] theorem draw_arch (s : State) : s.draw.arch = s.arch := rfl
@[simp] theorem draw_port (s : State) : s.draw.port = s.port := rfl
@[simp] theorem draw_flash (s : State) : s.draw.flash = s.flash := rfl
@[simp] theorem draw_links (s : State) : s.draw.links = s.links := rfl
@[simp] theorem draw_faults (s : State) : s.draw.faults = s.faults := rfl
@[simp] theorem draw_pending (s : State) : s.draw.pending = s.pending := rfl

@[simp] theorem draw_freeCount (s : State) : s.draw.freeCount = s.freeCount + 1 := rfl

end Machine

end Sys2Proof
end

