-- ==== Sys2Proof/Laws/Ops.lean ====
section
/-!
SUPPORT. What each shared operation can do, said once: the pieces it may change, and the values it leaves there. A proof
cites these and does not unfold the operation.
-/

namespace Sys2Proof.Machine

variable {ps qs : List Piece} {s t u : State}

/-! ## The pieces that change -/

theorem OnlyChanges.refl (ps : List Piece) (s : State) : OnlyChanges ps s s := fun p _ => by cases p <;> rfl

theorem OnlyChanges.trans (h : OnlyChanges ps s t) (k : OnlyChanges ps t u) : OnlyChanges ps s u := by
  intro p hp
  have h' := h p hp
  have k' := k p hp
  cases p <;> exact Eq.trans k' h'

theorem OnlyChanges.mono (h : OnlyChanges ps s t) (sub : ps ⊆ qs) : OnlyChanges qs s t := fun p hp => h p fun m => hp (sub m)

theorem OnlyChanges.ite {c : Prop} [Decidable c] (h : OnlyChanges ps s t) (k : OnlyChanges ps s u) :
    OnlyChanges ps s (if c then t else u) := by split <;> assumption

theorem changes_withStarting (h : .starting ∈ ps) (v) : OnlyChanges ps s (s.withStarting v) := by
  intro p hp; cases p <;> first | rfl | exact absurd h hp
theorem changes_withIntake (h : .intake ∈ ps) (v) : OnlyChanges ps s (s.withIntake v) := by
  intro p hp; cases p <;> first | rfl | exact absurd h hp
theorem changes_withRing (h : .ring ∈ ps) (v) : OnlyChanges ps s (s.withRing v) := by
  intro p hp; cases p <;> first | rfl | exact absurd h hp
theorem changes_withCond (h : .cond ∈ ps) (v) : OnlyChanges ps s (s.withCond v) := by
  intro p hp; cases p <;> first | rfl | exact absurd h hp
theorem changes_withView (h : .view ∈ ps) (v) : OnlyChanges ps s (s.withView v) := by
  intro p hp; cases p <;> first | rfl | exact absurd h hp
theorem changes_withComp (h : .comp ∈ ps) (v) : OnlyChanges ps s (s.withComp v) := by
  intro p hp; cases p <;> first | rfl | exact absurd h hp
theorem changes_withGuard (h : .guard ∈ ps) (v) : OnlyChanges ps s (s.withGuard v) := by
  intro p hp; cases p <;> first | rfl | exact absurd h hp
theorem changes_withStore (h : .store ∈ ps) (v) : OnlyChanges ps s (s.withStore v) := by
  intro p hp; cases p <;> first | rfl | exact absurd h hp
theorem changes_withMover (h : .mover ∈ ps) (v) : OnlyChanges ps s (s.withMover v) := by
  intro p hp; cases p <;> first | rfl | exact absurd h hp
theorem changes_withArch (h : .arch ∈ ps) (v) : OnlyChanges ps s (s.withArch v) := by
  intro p hp; cases p <;> first | rfl | exact absurd h hp
theorem changes_withPort (h : .port ∈ ps) (v) : OnlyChanges ps s (s.withPort v) := by
  intro p hp; cases p <;> first | rfl | exact absurd h hp
theorem changes_withFlash (h : .flash ∈ ps) (v) : OnlyChanges ps s (s.withFlash v) := by
  intro p hp; cases p <;> first | rfl | exact absurd h hp
theorem changes_withLinks (h : .links ∈ ps) (v) : OnlyChanges ps s (s.withLinks v) := by
  intro p hp; cases p <;> first | rfl | exact absurd h hp
theorem changes_withFaults (h : .faults ∈ ps) (v) : OnlyChanges ps s (s.withFaults v) := by
  intro p hp; cases p <;> first | rfl | exact absurd h hp
theorem changes_withFreeCount (h : .freeCount ∈ ps) (v) : OnlyChanges ps s (s.withFreeCount v) := by
  intro p hp; cases p <;> first | rfl | exact absurd h hp

/-! ## Links: responses and events -/

theorem changes_setLink (h : .links ∈ ps) (l v) : OnlyChanges ps s (s.setLink l v) := changes_withLinks h _

theorem changes_setTransaction (h : .links ∈ ps) (l t) : OnlyChanges ps s (s.setTransaction l t) := changes_withLinks h _

/-- A response joins its link's queue and nothing else changes (R163). -/
theorem respond_answers (l tag code r payload) (s : State) :
    Answers l tag code r payload s (respond l tag code r payload s) ∧
      OnlyChanges [.links] s (respond l tag code r payload s) :=
  ⟨rfl, changes_withLinks (by simp) _⟩

theorem changes_respond (h : .links ∈ ps) (l tag code r payload) : OnlyChanges ps s (respond l tag code r payload s) :=
  changes_withLinks h _

theorem refuse_answers (l tag code r) (s : State) :
    Answers l tag code r [] s (refuse l tag code r s) ∧ OnlyChanges [.links] s (refuse l tag code r s) :=
  respond_answers ..

/-- A link whose commands cannot be taken keeps the state; otherwise the command's taking happens (R163, log 2). -/
theorem whenTaken_cases (l : Link) (s t : State) :
    (canTake s l = true ∧ whenTaken l s t = t) ∨ (canTake s l = false ∧ whenTaken l s t = s) := by
  unfold whenTaken; cases canTake s l <;> simp

/-- A link that can take a command has a response place free (R163). -/
theorem canTake_place {l : Link} (h : canTake s l = true) :
    s.starting = false ∧ (s.links.get l).responses.length < responsePlaces := by simpa [canTake] using h

/-- A response keeps the bounds of a link that can take its command (R163). -/
theorem respond_bounded {l : Link} (h : canTake s l = true) (b : LinkBounded (s.links.get l)) (tag code r payload) :
    LinkBounded ((respond l tag code r payload s).links.get l) := by
  have := (canTake_place h).2
  simp only [respond, setLink_links, PerLink.get_set_same]
  exact ⟨b.1, by simp; omega⟩

/-- What becomes of a link an event is sent to (R165, R166). -/
def eventPlaced (e : Event) (k : LinkState) : LinkState :=
  if k.responses.length < responsePlaces then { k with responses := k.responses ++ [.event e] }
  else k.dropEvent

theorem postTo_eq (e : Event) (l : Link) (s : State) : postTo e l s = s.setLink l (eventPlaced e (s.links.get l)) := by
  unfold postTo eventPlaced
  dsimp only
  split <;> rfl

theorem eventPlaced_bounded {k : LinkState} (h : LinkBounded k) (e : Event) : LinkBounded (eventPlaced e k) := by
  unfold eventPlaced
  split
  · exact ⟨h.1, by simp; omega⟩
  · exact h

theorem changes_postTo (h : .links ∈ ps) (e l) : OnlyChanges ps s (postTo e l s) := by
  rw [postTo_eq]; exact changes_withLinks h _

theorem changes_postSubscribed (h : .links ∈ ps) (e l) : OnlyChanges ps s (postSubscribed e l s) :=
  .ite (changes_postTo h e l) (.refl ps s)

theorem changes_postIssued (h : .links ∈ ps) (e l) : OnlyChanges ps s (postIssued e l s) :=
  (changes_postTo h e l).trans (changes_postSubscribed h e _)

theorem changes_postByMask (h : .links ∈ ps) (e) : OnlyChanges ps s (postByMask e s) :=
  (changes_postSubscribed h e _).trans (changes_postSubscribed h e _)

theorem changes_postFor (h : .links ∈ ps) (e l) : OnlyChanges ps s (postFor e l s) := by
  cases l with
  | none => exact changes_postByMask h e
  | some l => exact changes_postIssued h e l

theorem changes_postBoth (h : .links ∈ ps) (e) : OnlyChanges ps s (postBoth e s) :=
  (changes_postTo h e _).trans (changes_postTo h e _)

/-- An event sent to a link keeps the bounds of both links' queues (R161, R163, R166). -/
theorem postTo_bounded (e : Event) (l m : Link) (h : LinkBounded (s.links.get m)) :
    LinkBounded ((postTo e l s).links.get m) := by
  rw [postTo_eq, setLink_links]
  by_cases c : m = l
  · subst c; simpa using eventPlaced_bounded h e
  · rw [PerLink.get_set_ne _ _ c]; exact h

theorem postSubscribed_bounded (e : Event) (l m : Link) (h : LinkBounded (s.links.get m)) :
    LinkBounded ((postSubscribed e l s).links.get m) := by
  unfold postSubscribed
  split
  · exact postTo_bounded e l m h
  · exact h

theorem postIssued_bounded (e : Event) (l m : Link) (h : LinkBounded (s.links.get m)) :
    LinkBounded ((postIssued e l s).links.get m) :=
  postSubscribed_bounded e _ m (postTo_bounded e l m h)

theorem postByMask_bounded (e : Event) (m : Link) (h : LinkBounded (s.links.get m)) :
    LinkBounded ((postByMask e s).links.get m) :=
  postSubscribed_bounded e _ m (postSubscribed_bounded e _ m h)

theorem postFor_bounded (e : Event) (l : Option Link) (m : Link) (h : LinkBounded (s.links.get m)) :
    LinkBounded ((postFor e l s).links.get m) := by
  cases l with
  | none => exact postByMask_bounded e m h
  | some l => exact postIssued_bounded e l m h

theorem postBoth_bounded (e : Event) (m : Link) (h : LinkBounded (s.links.get m)) :
    LinkBounded ((postBoth e s).links.get m) := postTo_bounded e _ m (postTo_bounded e _ m h)

/-! ## Faults -/

theorem changes_postSteered (h : .links ∈ ps) (e v) : OnlyChanges ps s (postSteered e v s) := by
  unfold postSteered
  exact (OnlyChanges.ite (changes_postTo h e _) (.refl ps s)).trans
    (OnlyChanges.ite (changes_postTo h e _) (.refl ps _))

theorem postSteered_bounded (e : Event) (v : Steering) (m : Link) (h : LinkBounded (s.links.get m)) :
    LinkBounded ((postSteered e v s).links.get m) := by
  have k : LinkBounded ((if v.names .panel then postTo e .panel s else s).links.get m) := by
    split
    · exact postTo_bounded e _ m h
    · exact h
  unfold postSteered
  dsimp only
  split
  · exact postTo_bounded e _ m k
  · exact k

theorem changes_postFault (h : .links ∈ ps) (cls kind origin detail marker) :
    OnlyChanges ps s (postFault cls kind origin detail marker s) := changes_postSteered h _ _

theorem postFault_faults (cls kind origin detail marker) (s : State) :
    (postFault cls kind origin detail marker s).faults = s.faults :=
  changes_postFault (ps := [.links]) (by simp) cls kind origin detail marker .faults (by simp)

/-- What raising a fault makes of the Fault Recorder's records (R174): nothing for a masked kind; the notice flag; or the
first-error record of its class, and after it the next-error flag. -/
def faultsRaised (kind : FaultKind) (origin : FaultOrigin) (detail : FaultDetail) (log : Option HeaderLog) (s : State) :
    Faults :=
  let f := s.faults
  match f.policy.get kind.index with
  | ⟨true, _⟩ => f
  | ⟨false, .notice⟩ => { f with notices := f.notices.set kind.index true }
  | ⟨false, .error⟩ =>
    if f.error.isNone then { f with error := some (faultRecord kind origin detail log s) } else { f with errorNext := true }
  | ⟨false, .fatal⟩ =>
    if f.fatal.isNone then { f with fatal := some (faultRecord kind origin detail log s) } else { f with fatalNext := true }

theorem Table.set_get_self {α : Type} {n : Nat} (t : Table α n) (i : Fin n) (v : α) (h : t.get i = v) : t.set i v = t := by
  apply Table.ext_get
  intro j
  rw [Table.get_set]
  split
  · rename_i e; rw [e, h]
  · rfl

theorem raise_faults (kind origin detail log) (s : State) :
    (raise kind origin detail log s).faults = faultsRaised kind origin detail log s := by
  rcases e : s.faults.policy.get kind.index with ⟨m, v⟩
  cases m with
  | true => simp [raise, faultsRaised, e]
  | false =>
    cases v with
    | notice =>
      by_cases c : s.faults.notices.get kind.index = true
      · simp [raise, faultsRaised, e, c, Table.set_get_self _ _ _ c]
      · simp [raise, faultsRaised, e, c, postFault_faults]
    | error =>
      by_cases c : s.faults.error.isNone = true
      · simp only [raise, faultsRaised, e, c]; simp [postFault_faults]
      · by_cases d : s.faults.errorNext = true
        · simp [raise, faultsRaised, e, c, d]
          cases hf : s.faults; simp_all
        · simp [raise, faultsRaised, e, c, d, postFault_faults]
    | fatal =>
      by_cases c : s.faults.fatal.isNone = true
      · simp only [raise, faultsRaised, e, c]; simp [postFault_faults]
      · by_cases d : s.faults.fatalNext = true
        · simp [raise, faultsRaised, e, c, d]
          cases hf : s.faults; simp_all
        · simp [raise, faultsRaised, e, c, d, postFault_faults]

/-- Raising a fault changes the records of the Fault Recorder and the links, and nothing else (R174, R175). -/
theorem changes_raise (h : .links ∈ ps) (k : .faults ∈ ps) (kind origin detail log) :
    OnlyChanges ps s (raise kind origin detail log s) := by
  have r := OnlyChanges.refl ps s
  have w (f : Faults) (cls marker) : OnlyChanges ps s (postFault cls kind origin detail marker (s.withFaults f)) :=
    (changes_withFaults k f).trans (changes_postFault h _ _ _ _ _)
  unfold raise
  dsimp only
  split
  · exact r
  · split
    · split
      · exact r
      · exact w _ _ _
    · split
      · exact w _ _ _
      · split
        · exact r
        · exact w _ _ _
    · split
      · exact w _ _ _
      · split
        · exact r
        · exact w _ _ _

theorem changes_raiseInternal (h : .links ∈ ps) (k : .faults ∈ ps) (kind detail) :
    OnlyChanges ps s (raiseInternal kind detail s) := changes_raise h k _ _ _ _

/-- Raising a fault keeps the bounds of the links' queues (R166). -/
theorem raise_bounded (kind origin detail log) (m : Link) (h : LinkBounded (s.links.get m)) :
    LinkBounded ((raise kind origin detail log s).links.get m) := by
  have w (f : Faults) (cls marker) :
      LinkBounded ((postFault cls kind origin detail marker (s.withFaults f)).links.get m) := postSteered_bounded _ _ m h
  unfold raise
  dsimp only
  split
  · exact h
  · split
    · split
      · exact h
      · exact w _ _ _
    · split
      · exact w _ _ _
      · split
        · exact h
        · exact w _ _ _
    · split
      · exact w _ _ _
      · split
        · exact h
        · exact w _ _ _

/-- No fault that is raised changes a policy or the steering (R173, R174). -/
theorem raise_policy (kind origin detail log) (s : State) :
    (raise kind origin detail log s).faults.policy = s.faults.policy
      ∧ (raise kind origin detail log s).faults.steering = s.faults.steering := by
  rw [raise_faults]
  unfold faultsRaised
  dsimp only
  split
  · exact ⟨rfl, rfl⟩
  · exact ⟨rfl, rfl⟩
  · split <;> exact ⟨rfl, rfl⟩
  · split <;> exact ⟨rfl, rfl⟩

/-- A HALTED part stays HALTED whatever is raised (R176). -/
theorem raise_halted (kind origin detail log) (h : halted s = true) : halted (raise kind origin detail log s) = true := by
  unfold halted at *
  rw [raise_faults]
  unfold faultsRaised
  dsimp only
  split
  · exact h
  · exact h
  · split <;> exact h
  · split
    · rfl
    · exact h

/-! ## Free values -/

theorem changes_draw (h : .freeCount ∈ ps) : OnlyChanges ps s s.draw := changes_withFreeCount h _

end Sys2Proof.Machine
end

