-- ==== Sys2Proof/Laws/Blocks.lean ====
section
/-!
SUPPORT. What the shared operations of the Frame Ring, the Guard Unit, the Page Store, the Page Mover and the Compositor
can do: the pieces they may change, and the values they leave there.
-/

namespace Sys2Proof.Machine

variable {ps : List Piece} {s t : State}

/-! ## Memory right after power-on reset -/

theorem reset_buffer_wf : Mem.Wf Config.dramBlank RingBuffer.reset.content := Mem.wf_nil

theorem reset_slot_wf : Mem.Wf Config.dramBlank Slot.reset.content := Mem.wf_nil

theorem reset_flash_wf : Mem.Wf Config.flashBlank State.reset.flash := Mem.wf_nil

/-! ## The Frame Ring -/

theorem ringPin_get (b c : Fin 4) (r : Ring) :
    (ringPin b r).buffers.get c =
      if c = b then { r.buffers.get b with pins := (r.buffers.get b).pins + 1 } else r.buffers.get c := Table.get_set ..

theorem ringUnpin_get (b c : Fin 4) (r : Ring) :
    (ringUnpin b r).buffers.get c =
      if c = b then { r.buffers.get b with pins := (r.buffers.get b).pins - 1 } else r.buffers.get c := Table.get_set ..

@[simp] theorem ringPin_order (b : Fin 4) (r : Ring) : (ringPin b r).order = r.order := rfl
@[simp] theorem ringUnpin_order (b : Fin 4) (r : Ring) : (ringUnpin b r).order = r.order := rfl
@[simp] theorem ringWrite_order (r : Ring) (b o v) : (ringWrite r b o v).order = r.order := rfl
@[simp] theorem ringFree_order (r : Ring) (b) : (ringFree r b).order = r.order := rfl

/-- The buffer the Intake is given is FREE, or COMPLETE in the list and unpinned (R12). -/
theorem ringChoice_spec {r : Ring} {b : Fin 4} (h : ringChoice r = some b) :
    (r.buffers.get b).state = .free ∨ (b ∈ r.order ∧ (r.buffers.get b).pins = 0) := by
  unfold ringChoice at h
  split at h
  · rename_i c e
    obtain rfl : c = b := Option.some.inj h
    exact .inl (by simpa using List.find?_some e)
  · exact .inr ⟨List.mem_of_find?_eq_some h, by simpa using List.find?_some h⟩

/-- Bytes written into a buffer change no field but its content (R37). -/
theorem ringWrite_get (r : Ring) (b c : Fin 4) (o : Nat) (v : List Byte) :
    (ringWrite r b o v).buffers.get c =
      if c = b then { r.buffers.get b with content := (r.buffers.get b).content.writeRun Config.dramBlank o v }
      else r.buffers.get c := Table.get_set ..

/-! ## The Guard Unit -/

theorem changes_setOverride (h : .guard ∈ ps) (i o) : OnlyChanges ps s (s.setOverride i o) := changes_withGuard h _

/-- LAMP_EN as formed afresh (R84). -/
theorem formLamp_lampEn (g : Guard) : (formLamp g).lampEn = (g.commanded && !g.overrides.data.any forcesLampOff) := rfl

theorem changes_formLampFor (h : .guard ∈ ps) (r) : OnlyChanges ps s (formLampFor r s) :=
  .ite (changes_withGuard h _) (.refl ps s)

/-- An override that becomes ACTIVE changes the Guard Unit, and posts and raises what R86 says. -/
theorem changes_activate (g : .guard ∈ ps) (h : .links ∈ ps) (k : .faults ∈ ps) (i) : OnlyChanges ps s (activate i s) :=
  ((changes_setOverride g _ _).trans (changes_formLampFor g _)).trans
    ((changes_postByMask h _).trans (changes_raiseInternal h k _ _))

theorem changes_makeIdle (h : .guard ∈ ps) (i) : OnlyChanges ps s (makeIdle i s) :=
  (changes_setOverride h _ _).trans (changes_formLampFor h _)

theorem changes_evaluateOverride (g : .guard ∈ ps) (h : .links ∈ ps) (k : .faults ∈ ps) (i) :
    OnlyChanges ps s (evaluateOverride i s) := by
  unfold evaluateOverride
  dsimp only
  exact .ite (.ite ((changes_makeIdle g _).trans (changes_postByMask h _)) (.refl ps s))
    (.ite (changes_activate g h k _) (.refl ps s))

/-- The evaluation of the overrides on a source changes the Guard Unit, the links and the fault records only (R86, R87). -/
theorem changes_evaluateSource (g : .guard ∈ ps) (h : .links ∈ ps) (k : .faults ∈ ps) (src) :
    OnlyChanges ps s (evaluateSource src s) := by
  have one (i : Fin 3) (u : State) : OnlyChanges ps u
      (if (u.guard.overrides.get i).record.source = src then evaluateOverride i u else u) :=
    .ite (changes_evaluateOverride g h k i) (.refl ps u)
  exact ((one 0 s).trans (one 1 _)).trans (one 2 _)

theorem changes_setLossLevel (g : .guard ∈ ps) (h : .links ∈ ps) (k : .faults ∈ ps) (v) :
    OnlyChanges ps s (setLossLevel v s) :=
  .ite (.refl ps s) ((changes_withGuard g _).trans (changes_evaluateSource g h k _))

/-- The comparator changes the Guard Unit and, at the threshold, draws a free value (R81, log 18). -/
theorem changes_takeComparator (g : .guard ∈ ps) (h : .freeCount ∈ ps) : OnlyChanges ps s (takeComparator s) := by
  unfold takeComparator
  dsimp only
  split
  · exact (changes_withGuard g _).trans (changes_draw h)
  · exact changes_withGuard g _

/-- A raw level leaves the debounced level, and a run stands exactly while the two differ (R79). -/
theorem takeRaw_law (time : Nat) (level : Bool) (i : DebouncedInput) (h : i.run.isSome = decide (i.raw ≠ i.debounced)) :
    (takeRaw time level i).raw = level ∧ (takeRaw time level i).debounced = i.debounced
      ∧ (takeRaw time level i).run.isSome = decide (level ≠ i.debounced) := by
  unfold takeRaw
  split
  · rename_i e; subst e; exact ⟨rfl, rfl, h⟩
  · refine ⟨rfl, rfl, ?_⟩
    by_cases c : level = i.debounced <;> simp [c]

/-! ## The Page Store -/

@[simp] theorem setSlot_slot (s : State) (n m : Fin 24) (v : Slot) :
    (s.setSlot n v).slot m = if m = n then v else s.slot m := Table.get_set ..
@[simp] theorem setSlot_lesson (s : State) (n v) : (s.setSlot n v).store.lesson = s.store.lesson := rfl
@[simp] theorem setSlot_clock (s : State) (n v) : (s.setSlot n v).store.clock = s.store.clock := rfl
@[simp] theorem setSlot_interval (s : State) (n v) : (s.setSlot n v).store.interval = s.store.interval := rfl

theorem changes_setSlot (h : .store ∈ ps) (n v) : OnlyChanges ps s (s.setSlot n v) := changes_withStore h _

theorem changes_slotPin (h : .store ∈ ps) (n) : OnlyChanges ps s (slotPin n s) := changes_setSlot h _ _

theorem changes_slotUnpin (h : .store ∈ ps) (n) : OnlyChanges ps s (slotUnpin n s) := changes_setSlot h _ _

theorem slotPin_slot (s : State) (n m : Fin 24) :
    (slotPin n s).slot m = if m = n then { s.slot n with pins := (s.slot n).pins + 1 } else s.slot m := setSlot_slot ..

theorem slotUnpin_slot (s : State) (n m : Fin 24) :
    (slotUnpin n s).slot m = if m = n then { s.slot n with pins := (s.slot n).pins - 1 } else s.slot m := setSlot_slot ..

theorem changes_emptySlot (h : .store ∈ ps) (n) : OnlyChanges ps s (emptySlot n s) :=
  (changes_setSlot h _ _).trans (changes_withStore h _)

/-- An emptied slot keeps its pins and its content, has no fields and no link, and is not in the list (R94, R105). -/
theorem emptySlot_spec (n m : Fin 24) (s : State) :
    (emptySlot n s).slot m = (if m = n then { s.slot n with state := .empty, info := none, link := none } else s.slot m)
      ∧ (emptySlot n s).store.lesson = s.store.lesson.filter (fun k => decide (k ≠ n)) :=
  ⟨setSlot_slot .., rfl⟩

theorem changes_fillSlot (h : .store ∈ ps) (n i) : OnlyChanges ps s (fillSlot n i s) := changes_setSlot h _ _

/-- An uncorrectable read changes the Page Store and raises the fault (R107). -/
theorem changes_damageSlot (g : .store ∈ ps) (h : .links ∈ ps) (k : .faults ∈ ps) (n) :
    OnlyChanges ps s (damageSlot n s) := by
  unfold damageSlot
  dsimp only
  split
  all_goals first
    | exact .refl ps s
    | exact (changes_setSlot g _ _).trans (changes_raiseInternal h k _ _)

theorem changes_unlinkExtent (h : .store ∈ ps) (e) : OnlyChanges ps s (unlinkExtent e s) := changes_withStore h _

theorem changes_unlinkDamaged (h : .store ∈ ps) (e) : OnlyChanges ps s (unlinkDamaged e s) := changes_withStore h _

/-- After the unlinking no slot links the extent, and nothing but state and link of a slot has changed (R108). -/
theorem unlinkExtent_slot (e : Fin 225) (s : State) (n : Fin 24) :
    (unlinkExtent e s).slot n = (if linksExtent e (s.slot n) then unlinked (s.slot n) else s.slot n)
      ∧ linksExtent e ((unlinkExtent e s).slot n) = false := by
  have w : (unlinkExtent e s).slot n = if linksExtent e (s.slot n) then unlinked (s.slot n) else s.slot n :=
    Table.get_map ..
  refine ⟨w, ?_⟩
  rw [w]
  split
  · unfold unlinked; split <;> rfl
  · rename_i c; simpa using c

theorem changes_setLesson (h : .store ∈ ps) (v) : OnlyChanges ps s (s.setLesson v) := changes_withStore h _

theorem changes_appendLesson (h : .store ∈ ps) (n) : OnlyChanges ps s (appendLesson n s) := changes_withStore h _

/-- The slot CAPTURE ANY and RECALL take is a lesson slot that is EMPTY (R102, R136). -/
theorem lowestEmpty_spec {n : Fin 24} (h : lowestEmpty s = some n) : n ≠ 0 ∧ (s.slot n).state = .empty := by
  simpa using List.find?_some h

/-! ## The Page Mover -/

theorem changes_startCopy (h : .mover ∈ ps) : OnlyChanges ps s (startCopy s) := .ite (changes_withMover h _) (.refl ps s)

theorem changes_enqueueCopy (h : .mover ∈ ps) (r) : OnlyChanges ps s (enqueueCopy r s) := changes_withMover h _

theorem changes_dropHead (h : .mover ∈ ps) : OnlyChanges ps s (dropHead s) := changes_withMover h _

theorem changes_releaseSource (h : .ring ∈ ps) (k : .store ∈ ps) (c) : OnlyChanges ps s (releaseSource c s) := by
  cases c with
  | ring b => exact changes_withRing h _
  | slot0 => exact changes_slotUnpin k _

/-- A request that is queued had a place, stands at the tail, and pins its source: a ring buffer (the newest complete one,
R14) or slot 0 (R98, R99). -/
theorem queueCopy_spec {kind live target cause} {c : CopySource} (h : queueCopy kind live target cause s = some (c, t)) :
    s.mover.queue.length < moverPlaces ∧
      t.mover = { s.mover with queue := s.mover.queue ++ [⟨kind, c, target, cause⟩] } ∧
      ((∃ b, live = true ∧ newest s.ring = some b ∧ c = .ring b ∧ t.ring = ringPin b s.ring ∧ t.store = s.store) ∨
        (live = false ∧ c = .slot0 ∧ t.ring = s.ring ∧ t.store = (slotPin 0 s).store)) ∧
      OnlyChanges [.ring, .store, .mover] s t := by
  unfold queueCopy at h
  split at h
  · cases h
  · rename_i full
    refine ⟨by omega, ?_⟩
    split at h
    · rename_i fromRing
      split at h
      · cases h
      · rename_i b grant
        have : newest s.ring = some b := by
          unfold ringGrant at grant
          split at grant
          · rename_i c e
            split at grant
            · rw [e]; exact grant
            · cases grant
          · cases grant
        cases h
        exact ⟨rfl, .inl ⟨b, fromRing, this, rfl, rfl, rfl⟩,
          (changes_withRing (by simp) _).trans (changes_enqueueCopy (by simp) _)⟩
    · rename_i fromSlot
      cases h
      exact ⟨rfl, .inr ⟨by simpa using fromSlot, rfl, rfl, rfl⟩,
        (changes_slotPin (by simp) _).trans (changes_enqueueCopy (by simp) _)⟩

/-- A capture that is accepted changes the ring's pins, the Page Store and the Page Mover only (R103). -/
theorem changes_acceptCapture {live target append q cause} (h : acceptCapture live target append q cause s = some t) :
    OnlyChanges [.ring, .store, .mover] s t := by
  unfold acceptCapture at h
  split at h
  · cases h
  · rename_i c u e
    have k := (queueCopy_spec e).2.2.2
    dsimp only at h
    have e' := Option.some.inj h
    subst e'
    exact (k.trans (changes_fillSlot (by simp) _ _)).trans
      ((OnlyChanges.ite (changes_appendLesson (by simp) _) (.refl _ _)).trans (changes_startCopy (by simp)))

theorem changes_postCaptureDone (h : .links ∈ ps) (r d) : OnlyChanges ps s (postCaptureDone r d s) := by
  unfold postCaptureDone
  split
  · exact changes_postIssued h _ _
  · exact changes_postFor h _ _

theorem changes_freezeCopied (h : .comp ∈ ps) : OnlyChanges ps s (freezeCopied s) := changes_withComp h _

theorem changes_freezeFailedPane (g : .comp ∈ ps) (h : .links ∈ ps) (q) : OnlyChanges ps s (freezeFailedPane q s) := by
  unfold freezeFailedPane
  split
  · exact (changes_withComp g _).trans (changes_postTo h _ _)
  · exact .refl ps s

theorem changes_freezeFailed (g : .comp ∈ ps) (h : .links ∈ ps) : OnlyChanges ps s (freezeFailed s) :=
  (changes_freezeFailedPane g h _).trans (changes_freezeFailedPane g h _)

theorem changes_reloadInterval (g : .store ∈ ps) (h : .links ∈ ps) : OnlyChanges ps s (reloadInterval s) := by
  unfold reloadInterval
  dsimp only
  split
  · exact (changes_withStore g _).trans (changes_postFor h _ _)
  · exact changes_withStore g _

/-! ## The Compositor -/

theorem changes_setStaged (h : .comp ∈ ps) (l v) : OnlyChanges ps s (s.setStaged l v) := changes_withComp h _
theorem changes_setFreeze (h : .comp ∈ ps) (q v) : OnlyChanges ps s (s.setFreeze q v) := changes_withComp h _
theorem changes_setUnfreeze (h : .comp ∈ ps) (q v) : OnlyChanges ps s (s.setUnfreeze q v) := changes_withComp h _
theorem changes_setSource (h : .comp ∈ ps) (q v) : OnlyChanges ps s (s.setSource q v) := changes_withComp h _
theorem changes_setDisplay (h : .comp ∈ ps) (q v) : OnlyChanges ps s (s.setDisplay q v) := changes_withComp h _

theorem changes_postWithdrawn (h : .links ∈ ps) (k : .freeCount ∈ ps) (q l tag) :
    OnlyChanges ps s (postWithdrawn q l tag s) := (changes_draw k).trans (changes_postTo h _ _)

theorem changes_adoptIfReady (g : .comp ∈ ps) (h : .links ∈ ps) : OnlyChanges ps s (adoptIfReady s) := by
  unfold adoptIfReady
  split
  · exact ((changes_withComp g _).trans (changes_postTo h _ _)).trans (changes_postSubscribed h _ _)
  · exact .refl ps s

/-- An apply is adopted only while no override is ACTIVE (R61, R66). -/
theorem adoptable_spec {p : PendingApply} (h : adoptable s = some p) :
    anyActive s.guard = false ∧ s.comp.pendingApply = some p := by
  unfold adoptable at h
  split at h
  · cases h
  · rename_i c; exact ⟨by simpa using c, h⟩

theorem changes_switchPane (g : .comp ∈ ps) (h : .links ∈ ps) (q) : OnlyChanges ps s (switchPane q s) := by
  have w (l tag v o) : OnlyChanges ps s (switchTo q l tag v o s) :=
    ((changes_setSource g _ _).trans (changes_setFreeze g _ _)).trans
      ((changes_postTo h _ _).trans (changes_postSubscribed h _ _))
  unfold switchPane
  split
  · split
    all_goals first
      | exact .refl ps s
      | exact w _ _ _ _
  · exact .refl ps s
  · exact .refl ps s

theorem changes_unfreezePane (g : .comp ∈ ps) (h : .links ∈ ps) (q) : OnlyChanges ps s (unfreezePane q s) := by
  unfold unfreezePane
  split
  · exact .refl ps s
  · dsimp only
    split
    · exact ((changes_setUnfreeze g _ _).trans (changes_setSource g _ _)).trans (changes_postIssued h _ _)
    · exact changes_setUnfreeze g _ _

theorem changes_settleSlotPin (g : .comp ∈ ps) (h : .store ∈ ps) (q) : OnlyChanges ps s (settleSlotPin q s) := by
  have a (u : State) (n : Option (Fin 24)) : OnlyChanges ps u (match n with | some n => slotPin n u | none => u) := by
    cases n with
    | none => exact .refl ps u
    | some n => exact changes_slotPin h n
  have b (u : State) (n : Option (Fin 24)) : OnlyChanges ps u (match n with | some n => slotUnpin n u | none => u) := by
    cases n with
    | none => exact .refl ps u
    | some n => exact changes_slotUnpin h n
  unfold settleSlotPin
  dsimp only
  split
  · exact .refl ps s
  · exact ((a s _).trans (b _ _)).trans (changes_setDisplay g _ _)

/-- Steps 3 to 5 of R61 change the Compositor, slot pins and the links only. -/
theorem changes_changeSet (g : .comp ∈ ps) (h : .store ∈ ps) (k : .links ∈ ps) : OnlyChanges ps s (changeSet s) :=
  (changes_adoptIfReady g k).trans <| (changes_switchPane g k _).trans <| (changes_switchPane g k _).trans <|
    (changes_unfreezePane g k _).trans <| (changes_unfreezePane g k _).trans <|
      (changes_settleSlotPin g h _).trans (changes_settleSlotPin g h _)

theorem changes_holdPane (g : .comp ∈ ps) (h : .ring ∈ ps) (q) : OnlyChanges ps s (holdPane q s) := by
  unfold holdPane
  split
  · unfold takeHeldPin
    dsimp only
    split
    · exact (changes_withRing h _).trans (changes_setDisplay g _ _)
    · split
      · exact (changes_withComp g _).trans (changes_setDisplay g _ _)
      · split
        · exact ((changes_withRing h _).trans (changes_withComp g _)).trans (changes_setDisplay g _ _)
        · exact changes_setDisplay g _ _
  · exact .refl ps s

theorem changes_endHold (g : .comp ∈ ps) (h : .ring ∈ ps) (q) : OnlyChanges ps s (endHold q s) := by
  unfold endHold
  dsimp only
  split
  · split
    · split
      · exact (changes_withRing h _).trans (changes_setDisplay g _ _)
      · exact changes_setDisplay g _ _
    · exact changes_setDisplay g _ _
  · exact .refl ps s

/-- Steps 7 and 8 of R61 change the Compositor and the ring's pins only. -/
theorem changes_movePins (g : .comp ∈ ps) (h : .ring ∈ ps) : OnlyChanges ps s (movePins s) := by
  have move (u : State) (q : Pane) : OnlyChanges ps u (moveCurrentPin q u) :=
    (changes_withRing h _).trans (changes_setDisplay g _ _)
  have settle (u : State) : OnlyChanges ps u (settleHeldBuffer u) := .ite (.refl ps u) (changes_withComp g _)
  exact (changes_holdPane g h _).trans <| (changes_holdPane g h _).trans <| (move _ _).trans <| (move _ _).trans <|
    (changes_endHold g h _).trans <| (changes_endHold g h _).trans <| (settle _).trans <|
      (changes_setDisplay g _ _).trans (changes_setDisplay g _ _)

end Sys2Proof.Machine
end

