-- ==== Sys2Proof/Laws/Port.lean ====
section
/-!
SUPPORT. What the shared operations of the View Unit, the flash, the Lesson Archive and the Flash Port can do: the pieces
they may change, and the values they leave there.
-/

namespace Sys2Proof.Machine

variable {ps : List Piece} {s t : State}

/-! ## The View Unit -/

theorem changes_finishRamp (g : .view ∈ ps) (h : .links ∈ ps) (q) : OnlyChanges ps s (finishRamp q s) :=
  .ite ((changes_withView g _).trans (changes_postFor h _ _)) (.refl ps s)

theorem changes_updatePane (g : .view ∈ ps) (h : .links ∈ ps) (q d) : OnlyChanges ps s (updatePane q d s) :=
  ((changes_withView g _).trans (changes_finishRamp g h _)).trans (changes_withView g _)

/-- The View Unit's work at an output frame start changes the View Unit and the links only (R48). -/
theorem changes_updateViews (g : .view ∈ ps) (h : .links ∈ ps) (d) : OnlyChanges ps s (updateViews d s) :=
  ((changes_updatePane g h _ _).trans (changes_updatePane g h _ _)).trans (changes_withView g _)

/-- The part of a Z step that goes toward the target without passing it (R50). -/
theorem stepZ_between (z target step : Nat) :
    (z ≤ target → z ≤ stepZ z target step ∧ stepZ z target step ≤ target)
      ∧ (target ≤ z → target ≤ stepZ z target step ∧ stepZ z target step ≤ z) := by
  unfold stepZ; split <;> omega

/-! ## The flash -/

theorem programPage_bytes (bytes : List Byte) (h : bytes.length ≤ Config.flashPage) :
    (bytes ++ List.replicate (Config.flashPage - bytes.length) Config.flashBlank).length = Config.flashPage := by
  simp; omega

/-- A page program leaves every byte outside the page as it was (R143). -/
theorem programPage_outside (block page : Nat) (bytes : List Byte) (m : Mem) (h : bytes.length ≤ Config.flashPage)
    {a : Nat} (out : ¬ InPage (block, page) a) :
    (programPage block page bytes m).read Config.flashBlank a = m.read Config.flashBlank a := by
  apply Mem.read_writeRun_outside
  rw [programPage_bytes bytes h]
  simp only [InPage] at out
  omega

/-- An erase leaves every byte outside the block as it was, and every byte of the block 0xFF (R143, R184). -/
theorem eraseBlock_read (block : Nat) (m : Mem) (a : Nat) [Decidable (InBlock block a)] :
    (eraseBlock block m).read Config.flashBlank a =
      if InBlock block a then Config.flashBlank else m.read Config.flashBlank a := by
  unfold eraseBlock
  rw [Mem.read_erase]
  by_cases c : InBlock block a
  · rw [if_pos c]; exact if_pos c
  · rw [if_neg c]; exact if_neg c

theorem changes_cutPage (g : .flash ∈ ps) (h : .freeCount ∈ ps) (c b p) : OnlyChanges ps s (cutPage c b p s) :=
  (changes_withFlash g _).trans (changes_draw h)

theorem changes_cutBlock (g : .flash ∈ ps) (h : .freeCount ∈ ps) (b) : OnlyChanges ps s (cutBlock b s) :=
  (changes_withFlash g _).trans (changes_draw h)

theorem changes_cutCommand (g : .flash ∈ ps) (h : .freeCount ∈ ps) (c) : OnlyChanges ps s (cutCommand c s) := by
  have page {u : State} : OnlyChanges ps u (match u.port.command with
      | some k =>
        match k.kind, k.address with
        | .pageProgram, some (b, p) => cutPage c b p u
        | .blockErase, some (b, _) | .suspend, some (b, _) => cutBlock b u
        | _, _ => u
      | none => u) := by
    split
    · split
      · exact changes_cutPage g h _ _ _
      · exact changes_cutBlock g h _
      · exact changes_cutBlock g h _
      · exact .refl ps u
    · exact .refl ps u
  have block : OnlyChanges ps s (match s.port.suspended with | some (e, b) => cutBlock (blockOf e b) s | none => s) := by
    split
    · exact changes_cutBlock g h _
    · exact .refl ps s
  exact block.trans page

theorem cutRun_wf {m : Mem} (h : Mem.Wf Config.flashBlank m) (n a c : Nat) : Mem.Wf Config.flashBlank (cutRun n a c m) :=
  Mem.wf_writeRun h _ _

theorem spoilWord_wf {m : Mem} (h : Mem.Wf Config.flashBlank m) (b p) : Mem.Wf Config.flashBlank (spoilWord b p m) := by
  unfold spoilWord
  split
  · exact Mem.wf_writeRun h _ _
  · exact h

/-- A page that holds its word has the word's first byte, and a spoilt page has another. -/
theorem holdsWord_spoilWord (m : Mem) (b p : Nat) : holdsWord (spoilWord b p m) b p = false := by
  have head {m : Mem} {w v : Byte} {ws : List Byte} (h : pageHead m b p 4 = w :: ws) (g : flashByte m b p 0 = v) : v = w := by
    subst g
    exact (List.cons.inj h).1
  have byte {m : Mem} (h : holdsWord m b p = true) : ∃ w ws, pageHead m b p 4 = w :: ws
      ∧ ∀ n, holdsWord n b p = true → ∃ vs, pageHead n b p 4 = w :: vs := by
    unfold holdsWord at h ⊢
    rcases p with _ | _ | _ | _ | p <;>
      simp only [holdsCommit, holdsWithdraw, holdsRetire, Option.any_eq_true_iff_get, Bool.and_eq_true, decide_eq_true_eq,
        Bool.false_eq_true, and_false] at h ⊢
    · obtain ⟨-, _, h, -⟩ := h
      exact ⟨_, _, h, fun n ⟨_, _, g, _⟩ => ⟨_, g⟩⟩
    · exact ⟨_, _, h.2, fun n g => ⟨_, g.2⟩⟩
    · exact ⟨_, _, h.2, fun n g => ⟨_, g.2⟩⟩
  by_cases h : holdsWord m b p = true
  · rw [Bool.eq_false_iff]
    intro g
    obtain ⟨w, ws, e, all⟩ := byte h
    obtain ⟨vs, f⟩ := all _ g
    have old := head e rfl
    have new := head f rfl
    rw [spoilWord, if_pos h] at new
    simp only [flashByte, Mem.read_writeRun] at old new
    simp at old new
    subst old
    exact absurd new (by generalize Mem.read _ _ _ = x; revert x; decide)
  · rw [spoilWord, if_neg h]
    simpa using h

/-- A spoilt page changes in its first byte at most. -/
theorem spoilWord_read {m : Mem} {b p a : Nat} (h : a ≠ pageAddress b p) :
    (spoilWord b p m).read Config.flashBlank a = m.read Config.flashBlank a := by
  unfold spoilWord
  split
  · exact Mem.read_writeRun_outside _ _ _ (by simp; omega)
  · rfl

/-- A page program that did not pass leaves every byte outside its page as it was. -/
theorem cutPage_outside (c : Cut) {b p a : Nat} (out : ¬ InPage (b, p) a) :
    (cutPage c b p s).flash.read Config.flashBlank a = s.flash.read Config.flashBlank a := by
  have first : a ≠ pageAddress b p := fun e => out (by subst e; simp [InPage, Config.flashPage])
  have run : (cutRun s.freeCount (pageAddress b p) Config.flashPage s.flash).read Config.flashBlank a
      = s.flash.read Config.flashBlank a := by
    apply Mem.read_writeRun_outside
    simp only [InPage] at out
    simp
    omega
  show Mem.read Config.flashBlank (if _ then _ else _) a = _
  split
  · exact (spoilWord_read first).trans run
  · exact run

/-- Where the rules say so, the page does not hold its word afterwards (R121, R134, R140, R184). -/
theorem holdsWord_cutPage {c : Cut} {p : Nat} (h : c.loses p = true) (b) :
    holdsWord (cutPage c b p s).flash b p = false := by
  show holdsWord (if c.loses p = true then _ else _) b p = false
  rw [if_pos h]
  exact holdsWord_spoilWord ..

theorem cutPage_wf (h : Mem.Wf Config.flashBlank s.flash) (c b p) : Mem.Wf Config.flashBlank (cutPage c b p s).flash := by
  show Mem.Wf _ (if _ then _ else _)
  split
  · exact spoilWord_wf (cutRun_wf h ..) _ _
  · exact cutRun_wf h ..

theorem programPage_wf {m : Mem} (h : Mem.Wf Config.flashBlank m) (b p v) :
    Mem.Wf Config.flashBlank (programPage b p v m) := Mem.wf_writeRun h _ _

theorem eraseBlock_wf {m : Mem} (h : Mem.Wf Config.flashBlank m) (b) : Mem.Wf Config.flashBlank (eraseBlock b m) :=
  Mem.wf_erase h _ _

/-! ## Directory entries -/

@[simp] theorem setEntry_entry (s : State) (e f : Fin 225) (v : Entry) :
    (s.setEntry e v).entry f = if f = e then v else s.entry f := Table.get_set ..

theorem changes_setEntry (h : .arch ∈ ps) (e v) : OnlyChanges ps s (s.setEntry e v) := changes_withArch h _

theorem changes_countFailure (h : .arch ∈ ps) (e) : OnlyChanges ps s (countFailure e s) := changes_withArch h _

theorem changes_setProgress (h : .arch ∈ ps) (e n) : OnlyChanges ps s (setProgress e n s) := changes_withArch h _

theorem changes_setScan (h : .arch ∈ ps) (v) : OnlyChanges ps s (s.setScan v) := changes_withArch h _

/-- An entry takes another state; the slots change only when it stops being VALID (R123, R108). -/
theorem changes_toEntryState (g : .arch ∈ ps) (h : .store ∈ ps) (e v) : OnlyChanges ps s (toEntryState e v s) :=
  .ite ((changes_setEntry g _ _).trans (changes_unlinkExtent h _)) (changes_setEntry g _ _)

/-- The entry after it took another state, and the slots' links: one that stopped being VALID is linked by none (R108). -/
theorem toEntryState_spec (e f : Fin 225) (v : EntryState) (s : State) :
    (toEntryState e v s).entry f = (if f = e then { s.entry e with state := v } else s.entry f)
      ∧ ((s.entry e).state = .valid → v ≠ .valid → ∀ n, linksExtent e ((toEntryState e v s).slot n) = false) := by
  constructor
  · unfold toEntryState
    dsimp only
    split <;> exact setEntry_entry ..
  · intro a b n
    unfold toEntryState
    dsimp only
    rw [if_pos ⟨a, b⟩]
    exact (unlinkExtent_slot e _ n).2

/-- The extent a PROGRAM job takes is FREE (R130). -/
theorem lowestFree_spec {e : Fin 225} (h : lowestFree s = some e) : (s.entry e).state = .free := by
  have k := List.find?_some h
  exact of_decide_eq_true k

/-! ## The job queue -/

theorem changes_setJobs (h : .port ∈ ps) (q) : OnlyChanges ps s (s.setJobs q) := changes_withPort h _

theorem changes_queueJob (h : .port ∈ ps) (j) : OnlyChanges ps s (queueJob j s) :=
  .ite (changes_setJobs h _) (.refl ps s)

/-- A job joins the tail while a place is free, and is dropped at a full queue; the bound is kept (R144). -/
theorem queueJob_queue (j : Job) (s : State) :
    (queueJob j s).port.queue = (if s.port.queue.length < jobPlaces then s.port.queue ++ [j] else s.port.queue)
      ∧ (s.port.queue.length ≤ jobPlaces → (queueJob j s).port.queue.length ≤ jobPlaces) := by
  unfold queueJob
  split
  · rename_i h
    exact ⟨rfl, fun _ => by simp [State.setJobs]; omega⟩
  · exact ⟨rfl, id⟩

theorem updateFirst_length {α : Type} (p : α → Bool) (f : α → α) (q : List α) : (updateFirst p f q).length = q.length := by
  induction q with
  | nil => rfl
  | cons a q ih => unfold updateFirst; split <;> simp [ih]

theorem changes_updateRunning (h : .port ∈ ps) (f) : OnlyChanges ps s (updateRunning f s) := changes_withPort h _

theorem changes_dropRunning (h : .port ∈ ps) : OnlyChanges ps s (dropRunning s) := changes_withPort h _

theorem changes_replaceJob (h : .port ∈ ps) (p j) : OnlyChanges ps s (replaceJob p j s) := changes_withPort h _

theorem currentJob_spec {p : FlashPort} {j : Job} (h : currentJob p = some j) : j ∈ p.queue ∧ j.state = .running :=
  ⟨List.mem_of_find?_eq_some h, by simpa [Job.isRunning] using List.find?_some h⟩

/-! ## Flash commands -/

theorem changes_issue (h : .port ∈ ps) (k a) : OnlyChanges ps s (issue k a s) := changes_withPort h _

/-- An issued command is in flight with its deadline, and nothing else of the port changes (R143). -/
theorem issue_port (k : FlashKind) (a : Option (Nat × Nat)) (s : State) :
    (issue k a s).port = { s.port with command := some { kind := k, address := a, deadline := k.deadline } } := rfl

theorem changes_endCommand (h : .port ∈ ps) : OnlyChanges ps s (endCommand s) := changes_withPort h _

theorem endCommand_port (s : State) : (endCommand s).port = { s.port with command := none } := rfl

theorem changes_issueReset (h : .port ∈ ps) (c) : OnlyChanges ps s (issueReset c s) :=
  (changes_issue h _ _).trans (changes_withPort h _)

theorem changes_issueProgramStep (h : .port ∈ ps) (j) : OnlyChanges ps s (issueProgramStep j s) := by
  unfold issueProgramStep
  split
  · exact .ite (changes_issue h _ _) (changes_issue h _ _)
  · exact .refl ps s

theorem changes_issueReadStep (h : .port ∈ ps) (j) : OnlyChanges ps s (issueReadStep j s) := changes_issue h _ _

/-! ## The ends of jobs -/

theorem changes_backToHeld (h : .store ∈ ps) (n) : OnlyChanges ps s (backToHeld n s) :=
  .ite (changes_setSlot h _ _) (.refl ps s)

/-- A save that ends without a commit changes the queue, its slot and the links (R134). -/
theorem changes_endSave (g : .port ∈ ps) (h : .store ∈ ps) (k : .links ∈ ps) (j r) : OnlyChanges ps s (endSave j r s) :=
  (changes_setJobs g _).trans <| (changes_slotUnpin h _).trans <| (changes_backToHeld h _).trans (changes_postIssued k _ _)

theorem changes_staleHeld (g : .arch ∈ ps) (h : .store ∈ ps) (j) : OnlyChanges ps s (staleHeld j s) := by
  unfold staleHeld
  split
  · exact changes_toEntryState g h _ _
  · exact .refl ps s

theorem changes_abandonSave (f : .arch ∈ ps) (g : .port ∈ ps) (h : .store ∈ ps) (k : .links ∈ ps) (j r) :
    OnlyChanges ps s (abandonSave j r s) := (changes_staleHeld f h _).trans (changes_endSave g h k _ _)

theorem changes_retireEntry (f : .arch ∈ ps) (g : .port ∈ ps) (h : .store ∈ ps) (e) : OnlyChanges ps s (retireEntry e s) :=
  (changes_toEntryState f h _ _).trans (changes_queueJob g _)

theorem changes_expireEntry (f : .arch ∈ ps) (g : .port ∈ ps) (h : .store ∈ ps) (e) :
    OnlyChanges ps s (expireEntry e s) := by
  have a : OnlyChanges ps s (countFailure e (toEntryState e .stale s)) :=
    (changes_toEntryState f h _ _).trans (changes_countFailure f _)
  exact .ite (a.trans (changes_retireEntry f g h e)) a

theorem changes_leaveRead (f : .arch ∈ ps) (g : .port ∈ ps) (h : .store ∈ ps) (j) : OnlyChanges ps s (leaveRead j s) :=
  ((changes_setJobs g _).trans (changes_slotUnpin h _)).trans (changes_setEntry f _ _)

theorem changes_failRead (f : .arch ∈ ps) (g : .port ∈ ps) (h : .store ∈ ps) (k : .links ∈ ps) (j r) :
    OnlyChanges ps s (failRead j r s) :=
  (changes_leaveRead f g h _).trans ((changes_emptySlot h _).trans (changes_postIssued k _ _))

theorem changes_completeRead (f : .arch ∈ ps) (g : .port ∈ ps) (h : .store ∈ ps) (k : .links ∈ ps) (j) :
    OnlyChanges ps s (completeRead j s) := by
  have a (u : State) (c : Bool) : OnlyChanges ps u ((if c = true then unlinkDamaged j.extent else id) u) := by
    cases c
    · exact .refl ps u
    · exact changes_unlinkDamaged h _
  exact (changes_leaveRead f g h _).trans <| (a _ _).trans <| (changes_setSlot h _ _).trans (changes_postIssued k _ _)

/-! ## Starting jobs -/

theorem changes_takeEntry (h : .arch ∈ ps) (j e n) : OnlyChanges ps s (takeEntry j e n s) := changes_setEntry h _ _

/-- The start of a PROGRAM job changes the archive, the port, its slot and the links (R130, R131, R134). -/
theorem changes_startProgram (f : .arch ∈ ps) (g : .port ∈ ps) (h : .store ∈ ps) (k : .links ∈ ps) (j) :
    OnlyChanges ps s (startProgram j s) := by
  unfold startProgram
  split
  · exact changes_endSave g h k _ _
  · split
    · exact changes_endSave g h k _ _
    · split
      · exact changes_endSave g h k _ _
      · exact (changes_withArch f _).trans <| (changes_takeEntry f _ _ _).trans <| (changes_replaceJob g _ _).trans
          (changes_issueProgramStep g _)

theorem changes_reclaimOrResume (g : .port ∈ ps) : OnlyChanges ps s (reclaimOrResume s) := by
  unfold reclaimOrResume
  split
  · exact changes_issue g _ _
  · split
    · exact (changes_withPort g _).trans (changes_issue g _ _)
    · exact .refl ps s

theorem changes_carryOut (f : .arch ∈ ps) (g : .port ∈ ps) (h : .store ∈ ps) (k : .links ∈ ps) (n) (s : State) :
    OnlyChanges ps s (carryOut n s) := by
  induction n generalizing s with
  | zero => exact .refl ps s
  | succ n ih =>
    unfold carryOut
    split
    · exact (changes_replaceJob g _ _).trans (changes_issueReadStep g _)
    · exact (changes_replaceJob g _ _).trans (changes_issue g _ _)
    · exact (changes_replaceJob g _ _).trans (changes_issueProgramStep g _)
    · have a := changes_startProgram (s := s) f g h k
      exact .ite (a _) ((a _).trans (ih _))
    · exact changes_reclaimOrResume g

theorem changes_suspendForRead (g : .port ∈ ps) : OnlyChanges ps s (suspendForRead s) := by
  unfold suspendForRead
  split
  · exact .ite (changes_issue g _ _) (.refl ps s)
  · exact .refl ps s

/-- A decision point changes the archive, the port, slots and the links only (R146). -/
theorem changes_arbitrate (f : .arch ∈ ps) (g : .port ∈ ps) (h : .store ∈ ps) (k : .links ∈ ps) :
    OnlyChanges ps s (arbitrate s) :=
  .ite (changes_suspendForRead g) (.ite (.refl ps s) (changes_carryOut f g h k _ s))

/-- A port that may start nothing keeps the state: no command in flight, and OFFLINE, HALTED, not mounted, or a current job
(R146). -/
theorem arbitrate_idle (c : s.port.command = none)
    (h : s.port.offline = true ∨ halted s = true ∨ s.arch.mount ≠ .mounted ∨ (currentJob s.port).isSome = true) :
    arbitrate s = s := by
  unfold arbitrate
  rw [c]
  simp only [Option.isSome_none, Bool.false_eq_true, if_false]
  rw [if_pos]
  rcases h with h | h | h | h <;> simp [h]

/-! ## The mount -/

theorem changes_beginMount (h : .arch ∈ ps) (c) : OnlyChanges ps s (beginMount c s) := changes_withArch h _

theorem changes_scanExtent (f : .arch ∈ ps) (h : .links ∈ ps) (k : .faults ∈ ps) (e bad) :
    OnlyChanges ps s (scanExtent e bad s) := by
  unfold scanExtent
  dsimp only
  exact .ite ((changes_setEntry f _ _).trans (changes_raiseInternal h k _ _)) (changes_setEntry f _ _)

theorem changes_scanPage (f : .arch ∈ ps) (h : .links ∈ ps) (k : .faults ∈ ps) (bad) : OnlyChanges ps s (scanPage bad s) := by
  unfold scanPage
  dsimp only
  split
  · exact changes_setScan f _
  · split
    · exact (changes_setScan f _).trans (changes_scanExtent f h k _ _)
    · exact changes_setScan f _

theorem changes_raiseHighest (h : .arch ∈ ps) : OnlyChanges ps s (raiseHighest s) := changes_withArch h _

theorem changes_dropDuplicates (f : .arch ∈ ps) (g : .port ∈ ps) : OnlyChanges ps s (dropDuplicates s) := by
  unfold dropDuplicates
  generalize duplicates s = es
  generalize s.port.offline = o
  have (u : State) (e : Fin 225) : OnlyChanges ps u
      (if o = true then u.setEntry e { u.entry e with state := .stale }
        else queueJob (.withdraw e false) (u.setEntry e { u.entry e with state := .stale })) :=
    .ite (changes_setEntry f _ _) ((changes_setEntry f _ _).trans (changes_queueJob g _))
  induction es generalizing s with
  | nil => exact .refl ps s
  | cons e es ih => exact (this s e).trans ih

/-- Reconciliation and the end of the mount change the archive, the queue, the slots and the links (R126). -/
theorem changes_endMount (f : .arch ∈ ps) (g : .port ∈ ps) (h : .store ∈ ps) (k : .links ∈ ps) (o) :
    OnlyChanges ps s (endMount o s) :=
  (changes_raiseHighest f).trans <| (changes_dropDuplicates f g).trans <| (changes_withStore h _).trans <|
    (changes_withArch f _).trans (changes_postBoth k _)

theorem changes_continueMount (f : .arch ∈ ps) (g : .port ∈ ps) (h : .store ∈ ps) (k : .links ∈ ps) :
    OnlyChanges ps s (continueMount s) := by
  unfold continueMount
  split
  · exact changes_issue g _ _
  · exact (changes_endMount f g h k _).trans (changes_arbitrate f g h k)

/-- Going on changes the archive, the port, slots and the links only (R124, R126, R146). -/
theorem changes_goOn (f : .arch ∈ ps) (g : .port ∈ ps) (h : .store ∈ ps) (k : .links ∈ ps) : OnlyChanges ps s (goOn s) :=
  .ite (changes_suspendForRead g) (.ite (changes_continueMount f g h k) (changes_arbitrate f g h k))

end Sys2Proof.Machine
end

