-- ==== Sys2Proof/Laws/GoesOn.lean ====
section
/-!
SUPPORT. What the port does next (R146, R150, R124): the arbiter and `goOn` do what `Decides` and `GoesOn` say.
-/

namespace Sys2Proof.Machine

variable {s t : State} {q before after : List Job} {j k : Job}

/-! ## The jobs of a queue -/

theorem updateFirst_at (p : Job → Bool) (f : Job → Job) (h : ∀ k ∈ before, p k = false) (g : p j = true) :
    updateFirst p f (before ++ j :: after) = before ++ f j :: after := by
  induction before with
  | nil => simp [updateFirst, g]
  | cons a l ih =>
    have := h a (by simp)
    simp [updateFirst, this, ih fun k m => h k (by simp [m])]

/-- A job replaced in a queue where no job before it is equal to it. -/
theorem replaceJob_at (v : Job) (e : s.port.queue = before ++ j :: after) (h : ∀ k ∈ before, k ≠ j) :
    replaceJob (fun k => decide (k = j)) v s = s.setJobs (before ++ v :: after) := by
  unfold replaceJob
  rw [e, updateFirst_at _ _ (by simpa using h) (by simp)]

theorem ne_of_turn (h : ∀ k ∈ before, j.turn < k.turn) : ∀ k ∈ before, k ≠ j := by
  rintro k m rfl
  exact absurd (h k m) (by omega)

/-- No job RUNNING: every turn is below 5. -/
theorem turn_lt (h : j.state ≠ .running) : j.turn < 5 := by
  cases j with
  | program p => cases p with | mk _ _ _ _ _ st => cases st <;> simp_all [Job.state, Job.turn]
  | read r => cases r with | mk _ _ _ _ _ st => cases st <;> simp_all [Job.state, Job.turn]
  | withdraw e r => cases r <;> simp_all [Job.state, Job.turn]
  | retire e r => cases r <;> simp_all [Job.state, Job.turn]

/-! ## The choice of the arbiter -/

/-- The oldest job of a turn. -/
def ofTurn (q : List Job) (n : Nat) : Option Job := q.find? fun k => decide (k.turn = n)

theorem ofTurn_none {n : Nat} : ofTurn q n = none ↔ ∀ k ∈ q, k.turn ≠ n := by simp [ofTurn]

/-- A search that finds the jobs of a turn finds the oldest of them. -/
theorem findSome?_ofTurn {α : Type} {f : Job → Option α} {g : α → Job} {n : Nat}
    (h : ∀ k, (f k).map g = if k.turn = n then some k else none) (q) : (q.findSome? f).map g = ofTurn q n := by
  unfold ofTurn
  induction q with
  | nil => rfl
  | cons a q ih =>
    have := h a
    by_cases c : a.turn = n <;> cases d : f a <;> simp_all

theorem pausedRead_eq (p : FlashPort) : (pausedRead p).map Job.read = ofTurn p.queue 0 :=
  findSome?_ofTurn (by rintro (⟨_, _, _, _, _, _ | _ | _⟩ | ⟨_, _, _, _, _, _ | _ | _, _⟩ | ⟨_, _ | _⟩ | ⟨_, _ | _⟩) <;> rfl) _

theorem queuedRead_eq (p : FlashPort) : (queuedRead p).map Job.read = ofTurn p.queue 1 :=
  findSome?_ofTurn (by rintro (⟨_, _, _, _, _, _ | _ | _⟩ | ⟨_, _, _, _, _, _ | _ | _, _⟩ | ⟨_, _ | _⟩ | ⟨_, _ | _⟩) <;> rfl) _

theorem queuedWord_eq (p : FlashPort) : queuedWord p = ofTurn p.queue 2 := by
  unfold queuedWord ofTurn
  congr 1
  funext a
  rcases a with ⟨_, _, _, _, _, _ | _ | _⟩ | ⟨_, _, _, _, _, _ | _ | _, _⟩ | ⟨_, _ | _⟩ | ⟨_, _ | _⟩ <;> rfl

theorem pausedProgram_eq (p : FlashPort) : (programIn .paused p).map Job.program = ofTurn p.queue 3 :=
  findSome?_ofTurn (by rintro (⟨_, _, _, _, _, _ | _ | _⟩ | ⟨_, _, _, _, _, _ | _ | _, _⟩ | ⟨_, _ | _⟩ | ⟨_, _ | _⟩) <;> rfl) _

theorem queuedProgram_eq (p : FlashPort) : (programIn .queued p).map Job.program = ofTurn p.queue 4 :=
  findSome?_ofTurn (by rintro (⟨_, _, _, _, _, _ | _ | _⟩ | ⟨_, _, _, _, _, _ | _ | _, _⟩ | ⟨_, _ | _⟩ | ⟨_, _ | _⟩) <;> rfl) _

/-- The oldest job of the lowest turn is taken next (R146). -/
theorem taken_of_first {p : FlashPort} {n : Nat} (h : ofTurn p.queue n = some j) (low : ∀ m, m < n → ofTurn p.queue m = none)
    (g : n < 5) (u : p.suspended ≠ none → n ≤ 1) : j.turn = n ∧ ∃ before after, TakenNext p before j after := by
  obtain ⟨e, before, after, c, d⟩ := List.find?_eq_some_iff_append.mp h
  have e : j.turn = n := by simpa using e
  have all (k) (m : k ∈ p.queue) : n ≤ k.turn :=
    Nat.le_of_not_lt fun c => ofTurn_none.mp (low k.turn c) k m rfl
  refine ⟨e, before, after, c, by omega, fun k m => ?_, fun k m => ?_, fun w => e ▸ u w⟩
  · have := all k (by simp [c, m])
    have : k.turn ≠ n := by simpa using d k m
    omega
  · have := all k (by simp [c, m])
    omega

/-- What the arbiter chooses for a job taken next. -/
def Job.choice : Job → Choice
  | .read j => .read j
  | .program j => if j.state = .paused then .resumeProgram j else .startProgram j
  | .withdraw e b => .word (.withdraw e b)
  | .retire e b => .word (.retire e b)

/-- The arbiter's choice (R146): the job taken next, or case 5 with none. -/
theorem choose_spec (p : FlashPort) :
    (∃ before j after, TakenNext p before j after ∧ choose p = j.choice)
      ∨ (choose p = .reclaim ∧ ∀ j ∈ p.queue, j.turn < 5 → p.suspended ≠ none ∧ 1 < j.turn) := by
  have a := pausedRead_eq p
  have b := queuedRead_eq p
  have c := queuedWord_eq p
  have d := pausedProgram_eq p
  have e := queuedProgram_eq p
  unfold choose
  cases ha : pausedRead p with
  | some r =>
    rw [ha] at a
    obtain ⟨-, x, y, h⟩ := taken_of_first a.symm (by omega) (by omega) (by omega)
    exact .inl ⟨x, _, y, h, rfl⟩
  | none =>
    rw [ha] at a
    have a : ofTurn p.queue 0 = none := a.symm
    cases hb : queuedRead p with
    | some r =>
      rw [hb] at b
      obtain ⟨-, x, y, h⟩ :=
        taken_of_first b.symm (fun m g => by rw [show m = 0 by omega]; exact a) (by omega) (by omega)
      exact .inl ⟨x, _, y, h, rfl⟩
    | none =>
      rw [hb] at b
      have b : ofTurn p.queue 1 = none := b.symm
      have low (k) (m : k ∈ p.queue) : 1 < k.turn := by
        have := ofTurn_none.mp a k m
        have := ofTurn_none.mp b k m
        omega
      cases hs : p.suspended with
      | some v => exact .inr ⟨by simp, fun k m _ => ⟨by simp, low k m⟩⟩
      | none =>
        have free {n : Nat} : p.suspended ≠ none → n ≤ 1 := fun w => absurd hs w
        cases hc : queuedWord p with
        | some w =>
          rw [hc] at c
          obtain ⟨g, x, y, h⟩ := taken_of_first c.symm (fun m g => by
            rcases (by omega : m = 0 ∨ m = 1) with rfl | rfl <;> assumption) (by omega) free
          refine .inl ⟨x, _, y, h, ?_⟩
          rcases w with ⟨_, _, _, _, _, _ | _ | _⟩ | ⟨_, _, _, _, _, _ | _ | _, _⟩ | ⟨_, _ | _⟩ | ⟨_, _ | _⟩ <;>
            first | rfl | (simp [Job.turn] at g)
        | none =>
          rw [hc] at c
          have c := c.symm
          cases hd : programIn .paused p with
          | some r =>
            rw [hd] at d
            obtain ⟨g, x, y, h⟩ := taken_of_first d.symm (fun m g => by
              rcases (by omega : m = 0 ∨ m = 1 ∨ m = 2) with rfl | rfl | rfl <;> assumption) (by omega) free
            refine .inl ⟨x, _, y, h, ?_⟩
            rcases r with ⟨_, _, _, _, _, _ | _ | _⟩ <;> first | rfl | (simp [Job.turn] at g)
          | none =>
            rw [hd] at d
            have d : ofTurn p.queue 3 = none := d.symm
            cases he : programIn .queued p with
            | some r =>
              rw [he] at e
              obtain ⟨g, x, y, h⟩ := taken_of_first e.symm (fun m g => by
                rcases (by omega : m = 0 ∨ m = 1 ∨ m = 2 ∨ m = 3) with rfl | rfl | rfl | rfl <;> assumption) (by omega) free
              refine .inl ⟨x, _, y, h, ?_⟩
              rcases r with ⟨_, _, _, _, _, _ | _ | _⟩ <;> first | rfl | (simp [Job.turn] at g)
            | none =>
              rw [he] at e
              refine .inr ⟨by simp, fun k m l => ?_⟩
              have := low k m
              have := ofTurn_none.mp c k m
              have := ofTurn_none.mp d k m
              have := ofTurn_none.mp e.symm k m
              omega

/-! ## The arbiter -/

/-- The port after a save that ends: the job has left the queue, and nothing else has changed (R134). -/
theorem endSave_port (j : ProgramJob) (r : SaveFailure) (s : State) :
    (endSave j r s).port = { s.port with queue := s.port.queue.eraseP (isProgramOn j.slot) } := by
  have h := (changes_slotUnpin (ps := [.store, .links]) (s := s.setJobs (s.port.queue.eraseP (isProgramOn j.slot)))
    (by simp) j.slot).trans ((changes_backToHeld (by simp) j.slot).trans
      (changes_postIssued (by simp) (.saveFailed j.tag j.slot j.lesson j.position r) j.link))
  exact h .port (by simp)

/-- A part that lets the port start work does so after a save that ends. -/
theorem mayStart_endSave (h : MayStart s) (j : ProgramJob) (r : SaveFailure) : MayStart (endSave j r s) := by
  have c := changes_endSave (ps := [.port, .store, .links]) (s := s) (by simp) (by simp) (by simp) j r
  obtain ⟨a, b, d, e⟩ := h
  have f : (endSave j r s).faults = s.faults := c .faults (by simp)
  have g : (endSave j r s).arch = s.arch := c .arch (by simp)
  have p := endSave_port j r s
  refine ⟨by rw [halted, f]; exact a, by rw [p]; exact b, by rw [g]; exact d, fun k m => e k ?_⟩
  rw [p] at m
  exact List.mem_of_mem_eraseP m

theorem lowestFree_none (h : lowestFree s = none) (e : Fin 225) : (s.entry e).state ≠ .free := by
  have := List.find?_eq_none.mp h e (List.mem_finRange e)
  simpa [State.entry] using this

/-- The first number that satisfies a test: it does, and no lower one does. -/
theorem find?_finRange {n : Nat} {p : Fin n → Bool} {e : Fin n} (h : (List.finRange n).find? p = some e) :
    p e = true ∧ ∀ f, f < e → p f = false := by
  refine ⟨List.find?_some h, fun f l => ?_⟩
  obtain ⟨-, before, after, c, d⟩ := List.find?_eq_some_iff_append.mp h
  have m := List.mem_finRange f
  rw [c] at m
  have sorted : (before ++ e :: after).Pairwise (· < ·) := c ▸ List.pairwise_lt_finRange n
  rcases List.mem_append.mp m with m | m
  · simpa using d f m
  · rcases List.mem_cons.mp m with rfl | m
    · omega
    · have := (List.pairwise_cons.mp (List.pairwise_append.mp sorted).2.1).1 f m
      omega

/-- The extent that the arbiter erases for reclaim is the one the archive names (R141). -/
theorem reclaimExtent_some {e : Fin 225} (h : reclaimExtent s = some e) : NamedForReclaim s e := by
  unfold reclaimExtent Table.first? at h
  split at h
  · rename_i f c
    cases h
    have := find?_finRange c
    simp only [decide_eq_true_eq, decide_eq_false_iff_not] at this
    exact ⟨this.1.1, .inl ⟨this.1.2, fun f l g => Nat.eq_zero_of_not_pos fun k => this.2 f l ⟨g, k⟩⟩⟩
  · rename_i c
    have low := List.find?_eq_none.mp c
    have := find?_finRange h
    simp only [decide_eq_true_eq, decide_eq_false_iff_not] at this low
    exact ⟨this.1, .inr ⟨fun f g => Nat.eq_zero_of_not_pos fun k => low f (List.mem_finRange f) ⟨g, k⟩, this.2⟩⟩

theorem reclaimExtent_none (h : reclaimExtent s = none) (e : Fin 225) : (s.entry e).state ≠ .stale := by
  unfold reclaimExtent Table.first? at h
  split at h
  · cases h
  · simpa [State.entry] using List.find?_eq_none.mp h e (List.mem_finRange e)

/-- The start of a PROGRAM job taken next: it starts, or it ends and leaves another decision point (R130, R131). -/
theorem startProgram_spec {j : ProgramJob} (m : MayStart s)
    (h : TakenNext s.port before (.program j) after) (q : j.state = .queued) :
    (Decides s (startProgram j s) ∧ (startProgram j s).port.command ≠ none)
      ∨ ∃ r, startProgram j s = endSave j r s ∧ ∀ t, Decides (endSave j r s) t → Decides s t := by
  unfold startProgram
  by_cases a : (s.slot j.slot).state = .damaged
  · rw [if_pos a]
    exact .inr ⟨_, rfl, fun t d => .ends m h q (.inl ⟨a, rfl⟩) d⟩
  rw [if_neg a]
  by_cases b : lastSequence ≤ s.arch.highest
  · rw [if_pos b]
    exact .inr ⟨_, rfl, fun t d => .ends m h q (.inr ⟨a, rfl, .inl b⟩) d⟩
  rw [if_neg b]
  cases f : lowestFree s with
  | none => exact .inr ⟨_, rfl, fun t d => .ends m h q (.inr ⟨a, rfl, .inr (lowestFree_none f)⟩) d⟩
  | some e =>
    left
    have low := (find?_finRange f).2
    have first : ∀ g, g < e → (s.entry g).state ≠ .free := fun g l => by simpa [State.entry] using low g l
    have k := Decides.starts (e := e) m h q a (by simpa [lastSequence] using b) (lowestFree_spec f) first
    dsimp only
    rw [replaceJob_at (before := before) (after := after) (j := .program j)]
    · exact ⟨k, by simp [issueProgramStep, ProgramJob.onExtent, issue]⟩
    · exact h.1
    · exact ne_of_turn h.2.2.1

/-- The choice carried out is what R146 decides. -/
theorem decides_carryOut (n : Nat) (s : State) (c : s.port.command = none) (m : MayStart s)
    (l : s.port.queue.length < n) : Decides s (carryOut n s) := by
  induction n generalizing s with
  | zero => omega
  | succ n ih =>
    unfold carryOut
    rcases choose_spec s.port with ⟨before, j, after, h, e⟩ | ⟨e, h⟩
    · rw [e]
      have rep := fun v => replaceJob_at v h.1 (ne_of_turn h.2.2.1)
      rcases j with j | j | ⟨f, b⟩ | ⟨f, b⟩
      · by_cases p : j.state = .paused
        · simp only [Job.choice, if_pos p, rep]
          refine cast (congrArg _ ?_) (Decides.takes m h (by simp [Job.turn, p]))
          cases d : j.held with
          | none => simp [issueProgramStep, State.setJobs, Job.withState, Job.nextCommand, d, c]
          | some v => by_cases f : j.checked < 4 <;> simp [issueProgramStep, Job.withState, Job.nextCommand, d, f] <;> rfl
        · simp only [Job.choice, if_neg p]
          have q : j.state = .queued := by
            rcases j with ⟨_, _, _, _, _, _ | _ | _⟩ <;> first | rfl | (exact absurd rfl p) | (exact absurd h.2.1 (by simp [Job.turn]))
          rcases startProgram_spec m h q with ⟨d, g⟩ | ⟨r, g, d⟩
          · rw [if_pos (by cases x : (startProgram j s).port.command <;> simp_all)]
            exact d
          · rw [g, endSave_port, if_neg (by simp [c])]
            refine d _ (ih _ (by rw [endSave_port]; exact c) (mayStart_endSave m j r) ?_)
            rw [endSave_port]
            have : (s.port.queue.eraseP (isProgramOn j.slot)).length < s.port.queue.length := by
              rw [List.length_eraseP_of_mem (a := .program j) (by rw [h.1]; simp) (by simp [isProgramOn])]
              have : 0 < s.port.queue.length := by rw [h.1, List.length_append, List.length_cons]; omega
              omega
            simp only
            omega
      · simp only [Job.choice, rep]
        refine cast (congrArg _ rfl) (Decides.takes m h ?_)
        have f := h.2.1
        rcases j with ⟨_, _, _, _, _, _ | _ | _, _⟩ <;> simp [Job.turn] at f ⊢
      · simp only [Job.choice, rep]
        refine cast (congrArg _ rfl) (Decides.takes m h ?_)
        have g := h.2.1
        cases b <;> simp [Job.turn] at g ⊢
      · simp only [Job.choice, rep]
        refine cast (congrArg _ rfl) (Decides.takes m h ?_)
        have g := h.2.1
        cases b <;> simp [Job.turn] at g ⊢
    · rw [e]
      simp only [reclaimOrResume]
      cases f : s.port.suspended with
      | some v => exact .resumes m f fun k l => (h k l (turn_lt (m.2.2.2 k l))).2
      | none =>
        have q : s.port.queue = [] := List.eq_nil_iff_forall_not_mem.mpr fun k l =>
          (h k l (turn_lt (m.2.2.2 k l))).1 f
        cases g : reclaimExtent s with
        | some x =>
          refine cast (congrArg _ ?_) (Decides.erases m q f (reclaimExtent_some g) rfl)
          simp only [f]
          rfl
        | none => exact .idles m q f (reclaimExtent_none g)

/-- A decision point does what R146 decides. -/
theorem decides_arbitrate (c : s.port.command = none) : Decides s (arbitrate s) := by
  by_cases m : MayStart s
  · have f : currentJob s.port = none := List.find?_eq_none.mpr fun k l => by
      simpa [Job.isRunning] using m.2.2.2 k l
    have := decides_carryOut (s.port.queue.length + 1) s c m (Nat.lt_succ_self _)
    unfold arbitrate
    simpa [c, m.1, m.2.1, m.2.2.1, f] using this
  · rw [arbitrate_idle c]
    · exact .waits m
    · cases a : halted s <;> cases b : s.port.offline <;> simp
      by_cases d : s.arch.mount = .mounted
      · refine .inr ?_
        cases f : currentJob s.port with
        | some k => rfl
        | none =>
          refine absurd ⟨a, b, d, fun k l => ?_⟩ m
          simpa [Job.isRunning] using List.find?_eq_none.mp f k l
      · exact .inl d

/-- Whether a QUEUED READ waits. -/
theorem readWaits_iff (p : FlashPort) : readWaits p = true ↔ ∃ j, Job.read j ∈ p.queue ∧ j.state = .queued := by
  simp only [readWaits, List.any_eq_true, Bool.and_eq_true, decide_eq_true_eq]
  constructor
  · rintro ⟨k, m, a, b⟩
    cases k with
    | read r => exact ⟨r, m, b⟩
    | _ => cases a
  · rintro ⟨j, m, a⟩
    exact ⟨_, m, rfl, a⟩

/-- What the port does after a step's own work (R124, R146, R150). -/
theorem goesOn_goOn (s : State) : GoesOn s (goOn s) := by
  refine ⟨fun c h => ?_, fun h => ⟨fun e m x => ?_, fun m => ?_⟩⟩
  · have g : goOn s = suspendForRead s := by simp [goOn, h]
    rw [g]
    unfold suspendForRead IsSuspended
    rw [h]
    constructor
    · rintro ⟨a, b, d, f⟩
      exact if_pos ⟨a, (readWaits_iff _).mpr f, b, d⟩
    · intro n
      exact if_neg fun ⟨a, f, b, d⟩ => n ⟨a, b, d, (readWaits_iff _).mp f⟩
  · simp only [goOn, h, m, Option.isSome_none, Bool.false_eq_true, if_false, if_true, continueMount]
    rw [x]
    simp [readBelow, issue]
    rfl
  · have g : goOn s = arbitrate s := by simp [goOn, h, m]
    rw [g]
    exact decides_arbitrate h

end Sys2Proof.Machine
end

