-- ==== Sys2Proof/Laws/Transactions.lean ====
section
/-!
SUPPORT. What each moment of a link transaction does (R159), said once: which transaction a row belongs to, what its kind byte
leaves, what its end leaves, and the pieces that change.
-/

namespace Sys2Proof.Machine

variable {ps : List Piece} {s : State} {l : Link} {kind : TransactionKind} {x : Transaction}

/-- A row goes on with the transaction it belongs to. -/
theorem InTransaction.goesOn (h : InTransaction kind l s x) : transactionNow s l = x ∧ x.goesOnAs kind = true := by
  rcases h with ⟨h, rfl⟩ | ⟨h, k | k⟩
  · exact ⟨by simp [transactionNow, h, opened], rfl⟩
  · exact ⟨by simp [transactionNow, h], by simp [Transaction.goesOnAs, k]⟩
  · exact ⟨by simp [transactionNow, h], by simp [Transaction.goesOnAs, k]⟩

/-- The fall of chip-select opens a transaction, unless one of a known kind is in progress (R159). -/
theorem transact_falls {α : Type} (clocked : α → Nat) (own : OwnData) (finish : α → Transaction → State → State) :
    transact l kind .falls clocked own finish s = chipSelectFalls l s := rfl

/-- A moment of another kind than the transaction in progress is no step of it (log 3). -/
theorem transact_other {α : Type} (h : (transactionNow s l).goesOnAs kind = false) (m : Moment α) (m' : m ≠ .falls)
    (clocked : α → Nat) (own : OwnData) (finish : α → Transaction → State → State) :
    transact l kind m clocked own finish s = s := by
  cases m with
  | falls => exact absurd rfl m'
  | clocks n => simp [transact, h]
  | ends a => simp [transact, h]

/-- The end of a transaction: its kind byte, its closing, and what its kind does. -/
theorem transact_ends {α : Type} (h : InTransaction kind l s x) (held : α) (clocked : α → Nat) (own : OwnData)
    (finish : α → Transaction → State → State) :
    transact l kind (.ends held) clocked own finish s
      = finish held (transactionNow (kindByteEnds l kind s) l)
          (closeTransaction l (clocked held) own (kindByteEnds l kind s)) := by
  simp [transact, h.goesOn.1, h.goesOn.2]

/-- A kind byte that has been clocked already does nothing again. -/
theorem kindByteEnds_again (h : (transactionNow s l).kind.isSome = true) : kindByteEnds l kind s = s := by
  simp [kindByteEnds, h]

/-- The kind byte of a known kind: the flag by R166, the record of a FETCH, and the kind noted. -/
theorem kindByteEnds_known (h : InTransaction kind l s x) (k : kind ≠ .unknown) (n : x.kind = none) :
    kindByteEnds l kind s = s.setLink l { s.links.get l with
      eventsLost := (s.links.get l).eventsLost && !x.clearsLost kind
      transaction := some { x with kind := some kind, record := if kind = .fetch then fetchHead s l else x.record } } := by
  simp [kindByteEnds, h.goesOn.1, n, k]

theorem changes_kindByteEnds (h : .links ∈ ps) (g : .faults ∈ ps) : OnlyChanges ps s (kindByteEnds l kind s) := by
  unfold kindByteEnds
  dsimp only
  split
  · exact .refl ps s
  · split
    · exact (changes_setLink h _ _).trans (changes_raise h g _ _ _ _)
    · exact changes_setLink h _ _

theorem changes_noteSent (h : .links ∈ ps) (n own) : OnlyChanges ps s (noteSent l n own s) := changes_setTransaction h _ _

theorem changes_closeTransaction (h : .links ∈ ps) (n own) : OnlyChanges ps s (closeTransaction l n own s) :=
  changes_setLink h _ _

/-- A moment of a transaction changes the links, the Fault Recorder at an unknown kind, and what its end changes. -/
theorem changes_transact {α : Type} (h : .links ∈ ps) (g : .faults ∈ ps) (m : Moment α) (clocked : α → Nat) (own : OwnData)
    (finish : α → Transaction → State → State) (f : ∀ a t u, OnlyChanges ps u (finish a t u)) :
    OnlyChanges ps s (transact l kind m clocked own finish s) := by
  cases m with
  | falls => exact OnlyChanges.ite (.refl ps s) (changes_setTransaction h _ _)
  | clocks n => exact OnlyChanges.ite ((changes_kindByteEnds h g).trans (changes_noteSent h _ _)) (.refl ps s)
  | ends a =>
    exact OnlyChanges.ite (((changes_kindByteEnds h g).trans (changes_closeTransaction h _ _)).trans (f _ _ _)) (.refl ps s)

end Sys2Proof.Machine
end

