-- ==== Sys2Proof/Laws/Video.lean ====
section
/-!
SUPPORT. What the video port's operations can do: for which panes samples are fetched, and which line is sent for a line.
-/

namespace Sys2Proof.Machine

/-- Samples are fetched for the panes that show a picture, and for no other (R56). -/
theorem fetches_iff (v : Shown) : fetches v = true ↔ v = .picture := by cases v <;> simp [fetches]

/-- The Compositor reads the buffers of the panes it fetches samples for (R56, R75). -/
theorem readsRing_iff (s : State) (b : Fin 4) : readsRing s b = true ↔
    ∃ q, (s.comp.display.get q).page = .ring b ∧ (s.comp.display.get q).shown = .picture := by
  simp only [readsRing, Bool.or_eq_true, Bool.and_eq_true, decide_eq_true_eq, fetches_iff]
  exact ⟨fun h => h.elim (fun h => ⟨.zero, h⟩) fun h => ⟨.one, h⟩, fun ⟨q, h⟩ => by cases q <;> simp_all [PerPane.get]⟩

/-- A line that was not replaced is sent as it stands (R77). -/
theorem sentLine_of_not_mem {late : List Nat} {y : Nat} (h : y ∉ late) : sentLine late y = some y := by
  cases y <;> simp [sentLine, h]

/-- A replaced line 0 has no line before it (R77). -/
theorem sentLine_zero {late : List Nat} (h : 0 ∈ late) : sentLine late 0 = none := by simp [sentLine, h]

/-- A replaced line repeats the one sent before it (R77). -/
theorem sentLine_succ {late : List Nat} {y : Nat} (h : y + 1 ∈ late) : sentLine late (y + 1) = sentLine late y := by
  simp [sentLine, h]

end Sys2Proof.Machine
end

