-- ==== Sys2Proof/Tests/Slice0.lean ====
section
/-!
SUPPORT. Tests: ill-formed commands are refused, frames name their commands, the manual's worked examples, one small step
for many commands, and for each statement with hypotheses a state and operands that meet them, clause by clause.
-/

namespace Sys2Proof.Tests

open Machine

/-! ## States -/

/-- The part after its DRAM check, with nothing else done. -/
def boot : State := { State.reset with starting := false }

/-- The state that an outcome answers. -/
def after : StepOutcome → State
  | .next t => t
  | _ => State.reset

/-- The last record that a link holds after an outcome. -/
def answer (l : Link) (o : StepOutcome) : Option Record := ((after o).links.get l).responses.getLast?

/-- The response's result. -/
def result (l : Link) (o : StepOutcome) : Option Result :=
  match answer l o with
  | some (.response _ _ r _) => some r
  | _ => none

/-- A state whose panel link has no response place left. -/
def full : State :=
  let k := { boot.links.panel with responses := .replicate 16 (.event (.resetNotice .bridge)) };
  { boot with links := boot.links.set .panel k }

/-- A state with waiting frames on the panel link. -/
def waiting (fs : List Frame) : State := { boot with links := boot.links.set .panel { boot.links.panel with commands := fs } }

/-- A state with a COMPLETE picture in ring buffer 0. -/
def live : State :=
  { boot with ring :=
      { buffers := boot.ring.buffers.set 0 { boot.ring.buffers.get 0 with state := .complete, frameNumber := 7 },
        order := [0] } }

/-- The Intake between frames. -/
def between (s : State) : State := { s with intake := { s.intake with state := .between, watch := some 200 } }

/-- The Intake in a frame with line `n` arriving into ring buffer 1. -/
def camera (n : Nat) (s : State) : State :=
  { s with
    intake := { s.intake with state := .inFrame, lineCount := n, target := some 1, lineGap := some 5, lineOpen := true }
    ring := { s.ring with buffers := s.ring.buffers.set 1 { s.ring.buffers.get 1 with state := .filling } } }

/-- A slot in a state. -/
def slotted (n : Fin 24) (v : SlotState) (s : State) : State := s.setSlot n { s.slot n with state := v }

/-- The part HALTED by a FATAL record. -/
def stopped (s : State) : State :=
  { s with faults := { s.faults with fatal := some ⟨.dramFailure, .internal, .none, none, 0, 0⟩ } }

/-- The archive MOUNTING, and MOUNTED. -/
def mounting (s : State) : State := { s with arch := { s.arch with mount := .mounting } }
def mounted (s : State) : State := { s with arch := { s.arch with mount := .mounted } }

/-- The port is OFFLINE. -/
def offline (s : State) : State := { s with port := { s.port with offline := true } }

/-- A port with a queue and a command in flight. -/
def port (queue : List Job) (c : FlashCommand) (s : State) : State :=
  { s with port := { s.port with queue := queue, command := some c } }

/-- An entry of the directory. -/
def entered (e : Fin 225) (v : Entry) (s : State) : State :=
  { s with arch := { s.arch with entries := s.arch.entries.set e v } }

/-- The header of lesson 3, position 0, sequence number 9. -/
def header9 : Header := ⟨9, 3, 0, 100, 1, ⟨64, 2048, 1536, .deg0⟩⟩

/-- A valid entry with that header. -/
def valid9 : Entry := { state := .valid, header := some header9, readers := 0, progress := 0, failures := 0 }

/-! ## Well-formed commands -/

theorem test_wf_long_payload : (Instr.commandFrame .panel 0#8 0x10#8 (.replicate 61 0#8) (.ends 0)).wellFormed = false := by decide
theorem test_wf_payload_of_60 : (Instr.commandFrame .panel 0#8 0x10#8 (.replicate 60 0#8) (.ends 0)).wellFormed = true := by decide
theorem test_wf_known_kind : (Instr.unknownKind .panel 0x32#8 .falls).wellFormed = false := by decide
theorem test_wf_known_code : (Instr.unknownCommand .bridge 0#8 0xA2#8 []).wellFormed = false := by decide
theorem test_wf_taken_payload : (Instr.setLamp .panel 0#8 (.replicate 61 0#8)).wellFormed = false := by decide
theorem test_wf_late_line : (Instr.lateLine 1080).wellFormed = false ∧ (Instr.lateLine 1079).wellFormed = true := by decide
theorem test_wf_whole_frame : (Instr.malformedCommandFrame .panel (.ends [1#8, 0x50#8, 1#8, 1#8])).wellFormed = false
    ∧ (Instr.malformedCommandFrame .panel (.ends [1#8, 0x50#8, 61#8, 1#8])).wellFormed = true := by decide

/-! ## The command that a frame names (R183) -/

theorem test_code_read_intake : instrOf .panel ⟨1#8, 0x10#8, []⟩ = .readIntake .panel 1#8 [] := by decide
theorem test_code_write_profile : instrOf .panel ⟨1#8, 0x20#8, [0#8]⟩ = .writeProfile .panel 1#8 [0#8] := by decide
theorem test_code_read_view : instrOf .bridge ⟨1#8, 0x33#8, []⟩ = .readView .bridge 1#8 [] := by decide
theorem test_code_apply : instrOf .bridge ⟨1#8, 0x43#8, []⟩ = .apply .bridge 1#8 [] := by decide
theorem test_code_clear_override : instrOf .panel ⟨1#8, 0x53#8, [0#8]⟩ = .clearOverride .panel 1#8 [0#8] := by decide
theorem test_code_capture : instrOf .panel ⟨1#8, 0x61#8, []⟩ = .capture .panel 1#8 [] := by decide
theorem test_code_delete_archived : instrOf .panel ⟨1#8, 0x74#8, []⟩ = .deleteArchived .panel 1#8 [] := by decide
theorem test_code_read_jobs : instrOf .panel ⟨1#8, 0x80#8, [0#8]⟩ = .readJobs .panel 1#8 [0#8] := by decide
theorem test_code_part_reset : instrOf .panel ⟨1#8, 0x93#8, []⟩ = .partReset .panel 1#8 [] := by decide
theorem test_code_clear_faults : instrOf .panel ⟨1#8, 0xA1#8, [2#8]⟩ = .clearFaults .panel 1#8 [2#8] := by decide
theorem test_code_unknown : instrOf .panel ⟨1#8, 0x25#8, [2#8]⟩ = .unknownCommand .panel 1#8 0x25#8 [2#8] := by decide

/-! ## Worked examples of 02: one pixel through profile 0 -/

def profile0 : Profile := Profile.defaults.get 0

theorem test_raw_estimate : rawEstimate ⟨[0, 0, 0, 0, 0, 0, 0, 0, 0, 11884, 3000, 1500, 0, 0, 0, 0], rfl⟩ = 175 := by decide
theorem test_smoothing_step : smoothed 4 600 175 = 650 := by decide
/-- The map settling: the third, fourth and eighth completions. -/
theorem test_map_settles : smoothed 4 675 175 = 687 ∧ smoothed 4 687 175 = 693 ∧ smoothed 4 699 175 = 699 := by decide
theorem test_tile_gain : tileGain profile0 650 = 365 ∧ tileGain profile0 699 = 340 ∧ tileGain profile0 700 = 339
    ∧ tileGain profile0 191 = 256 ∧ tileGain profile0 1020 = 256 := by decide
theorem test_pixel_gain :
    pixelGain (((Table.replicate 768 256).set 101 365).set 102 381) 736 448 = 369 := by decide +kernel
theorem test_normalise : normalise 120 369 = 173 ∧ normalise 160 369 = 231 ∧ normalise 250 369 = 255 := by decide
theorem test_blur : blur [190, 188, 186] [184, 173, 180] [178, 176, 175] 1 = 180 := by decide
theorem test_sharpen : sharpen profile0 173 180 = 169 ∧ sharpen profile0 231 231 = 231 := by decide
theorem test_ink_curve : inkCurve profile0 169 = 171 ∧ inkCurve profile0 231 = 254 ∧ inkCurve profile0 232 = 255
    ∧ inkCurve profile0 40 = 0 := by decide
theorem test_chroma_factor : chromaLevel (Profile.defaults.get 2) 100 = 114 ∧ chromaLevel profile0 100 = 100 := by decide

/-! ## Worked examples of 03: one window into the projector, a pan during a ramp -/

theorem test_window : (windowW 200, windowH 200) = (1304, 978) := by decide
theorem test_window_origin : windowOf ⟨200, 3444, 1536, .deg0⟩ = ⟨2792, 1047, 1304, 978⟩
    ∧ chromaWindow (windowOf ⟨200, 3444, 1536, .deg0⟩) = ⟨1396, 523, 652, 489⟩ := by decide
theorem test_centre_clamp : clampWhole ⟨200, 4000, 1536, .deg0⟩ = ⟨200, 3444, 1536, .deg0⟩ := by decide
theorem test_scaler_position : scalerPosition 1304 1440 0 = 0 ∧ scalerPosition 1304 1440 1 = 56251
    ∧ scalerPosition 1304 1440 1439 = 85393408 := by decide
theorem test_interpolate : interpolate 200 120 0 0 219 0 = 132 := by decide
theorem test_mirrored_point : windowPoint (windowOf ⟨200, 3444, 1536, .deg180⟩) .deg180 0 0 = (4095, 2024) := by decide

/-- Pane 0 at Z 128 with ZOOM_TO 192 by 32 and PAN_BY +1,500, -900 taken. -/
def panned : State :=
  { boot with view := { boot.view with
      views := ⟨⟨128, 2048, 1536, .deg0⟩, View.reset⟩
      ramps := ⟨⟨true, 192, 32, some .panel, 5#8⟩, ⟨false, 64, 1, none, 0#8⟩⟩
      pending := ⟨⟨1500, -900, none⟩, ⟨0, 0, none⟩⟩ } }

theorem test_pan_in_ramp : (after (exec .outputFrameStart panned)).view.views.pane0 = ⟨160, 3280, 636, .deg0⟩ := by decide
theorem test_ramp_done :
    let t := after (exec .outputFrameStart (after (exec .outputFrameStart panned)));
    t.view.views.pane0 = ⟨192, 3280, 636, .deg0⟩
      ∧ t.links.panel.responses = [.event (.rampDone .zero 192 5#8 2)] := by decide

/-! ## Bytes on the links (R180, R181, R182) -/

/-- The status byte of a part in STARTING, of an idle one, with records waiting, and HALTED with a fault pending. -/
theorem test_status_byte : statusByte State.reset .panel = 0x43#8 ∧ statusByte boot .bridge = 0x03#8
    ∧ statusByte full .panel = 0x07#8 ∧ statusByte (stopped full) .bridge = 0xD3#8 := by decide
theorem test_response_bytes : (Record.response 7#8 0x50#8 .ok [1#8, 1#8]).bytes = [7#8, 1#8, 7#8, 0x50#8, 0#8, 1#8, 1#8] := by
  decide
theorem test_refusal_bytes : (Record.response 7#8 0x99#8 .unknownCommand []).bytes = [5#8, 1#8, 7#8, 0x99#8, 3#8] := by decide
theorem test_numbers : num2 600 = [0x58#8, 2#8] ∧ num4 0x01020304 = [4#8, 3#8, 2#8, 1#8] ∧ readSigned2 0x7C#8 0xFC#8 = -900 := by
  decide

/-! ## One small step each -/

theorem test_set_lamp : (after (exec (.setLamp .panel 1#8 [1#8]) boot)).guard.lampEn = true
    ∧ result .panel (exec (.setLamp .panel 1#8 [2#8]) boot) = some .badArgument := by decide
/-- Profile 0 written with W 100 takes 160, and its K 40 stands. -/
theorem test_write_profile : (after (exec (.writeProfile .panel 1#8 [0#8, 1#8, 0#8, 100#8]) boot)).cond.profiles.get 0
    = { profile0 with white := 160 }
    ∧ result .panel (exec (.writeProfile .panel 1#8 [0#8, 1#8, 0#8, 100#8]) boot) = some .clamped := by decide
theorem test_zoom_to : (after (exec (.zoomTo .panel 9#8 [1#8, 0#8, 3#8, 0#8]) boot)).view.ramps.pane1
    = ⟨true, 512, 1, some .panel, 9#8⟩ := by decide
theorem test_set_clock : (after (exec (.setClock .panel 1#8 [1#8, 0#8, 0#8, 0xFF#8]) boot)).store.clock = 0xFF000001 := by decide
theorem test_clock_wraps : (after (exec .lessonClockTick
    { boot with store := { boot.store with clock := 4294967295 } })).store.clock = 0 := by decide
theorem test_capture_without_picture : result .panel (exec (.capture .panel 1#8 [0#8, 1#8, 0#8, 0#8]) boot)
    = some .moverBusy := by decide
theorem test_capture : let t := after (exec (.capture .panel 1#8 [0#8, 1#8, 1#8, 0#8]) live);
    (t.slot 1).state = .filling ∧ t.store.lesson = [1] ∧ (t.ring.buffers.get 0).pins = 1
      ∧ (after (exec .copyComplete t)).links.panel.responses.getLast? = some (.event (.captureDone 1#8 1 true false)) := by
  decide
theorem test_lesson_move : (after (exec (.lessonMove .panel 1#8 [0#8, 9#8])
    { boot with store := { boot.store with lesson := [4, 5, 6] } })).store.lesson = [5, 6, 4] := by decide
theorem test_set_watermark : (after (exec (.setWatermark .panel 1#8 [0#8]) boot)).links.panel.watermark = 1
    ∧ (after (exec (.setWatermark .panel 1#8 [17#8]) boot)).links.panel.watermark = 16 := by decide
theorem test_frame_start : (after (exec .cameraFrameStart (between live))).intake.target = some 1 := by decide
theorem test_line_gap : (after (exec .lineGapTimerExpiry (camera 5 boot))).intake.truncated = 1 := by decide
theorem test_intake_loss : let t := after (exec .intakeWatchExpiry (between boot));
    t.guard.lossLevel = true ∧ t.faults.error = some ⟨.intakeLoss, .internal, .none, none, 0, 0⟩ := by decide
/-- The arm folds: the run of 20 ms expires, override 1 becomes ACTIVE, and both panes are held at the next frame. -/
theorem test_arm_folded : let t := after (exec (.debounceRunExpiry .armFold) (after (exec (.armFoldChange true) boot)));
    (t.guard.overrides.get 1).active = true ∧ (t.guard.overrides.get 1).count = 1
      ∧ (after (exec .outputFrameStart t)).comp.display.pane0.held = true := by decide
theorem test_apply : let t := after (exec (.apply .panel 4#8 []) (after (exec (.stageLayout .panel 3#8 [1#8]) boot)));
    (after (exec .outputFrameStart t)).comp.active.layout = .split
      ∧ result .panel (exec (.apply .panel 4#8 []) boot) = some .nothingStaged := by decide
theorem test_late_line : (after (exec (.lateLine 1079) { boot with comp := { boot.comp with scanning := true } })).comp.underruns
    = 1 := by decide
theorem test_dram_failure : halted (after (exec (.dramCheckEnd false) State.reset)) = true
    ∧ (after (exec (.dramCheckEnd true) State.reset)).arch.mount = .mounting := by decide
theorem test_malformed : (after (exec (.malformedCommandFrame .bridge (.ends [1#8, 0x50#8])) boot)).faults.error
    = some ⟨.malformedFrame, .bridge, .none, some ⟨some 1#8, some 0x50#8, none, []⟩, 0, 0⟩ := by decide
theorem test_fetch : (after (exec (.fetch .panel (.ends 3)) boot)).links.panel.miso = [0x03#8, 2#8, 0#8, 0#8] := by decide

/-! ## Transactions (R159, R166, R171, R180) -/

/-- The bytes of whole transactions: a SET_LAMP frame with one byte too many, the same cut short, the other three kinds, a kind
byte that names none, and no kind byte. -/
theorem test_transaction_rows :
    transactionRow .panel [0x31#8, 7#8, 0x50#8, 1#8, 1#8, 9#8] = some (.commandFrame .panel 7#8 0x50#8 [1#8] (.ends 1))
      ∧ transactionRow .panel [0x31#8, 7#8, 0x50#8, 1#8] = some (.malformedCommandFrame .panel (.ends [7#8, 0x50#8, 1#8]))
      ∧ transactionRow .bridge [0x32#8, 0#8, 0#8] = some (.fetch .bridge (.ends 2))
      ∧ transactionRow .bridge [0x33#8] = some (.bulk .bridge (.ends 0))
      ∧ transactionRow .panel [0x3C#8, 0#8] = some (.linkReset .panel (.ends 1))
      ∧ transactionRow .panel [0x34#8, 0#8] = some (.unknownKind .panel 0x34#8 (.ends 1))
      ∧ transactionRow .panel [] = none := by decide

/-- A state with the panel link's events-lost flag set. -/
def lost (s : State) : State := { s with links := s.links.set .panel { s.links.panel with eventsLost := true } }

/-- A FETCH whose chip-select has fallen on a full queue with the flag set. -/
def fetching : State := after (exec (.fetch .panel .falls) (lost full))

/-- The flag is cleared by a FETCH that showed it, and stays when an event was dropped after the status byte was formed. -/
theorem test_events_lost : (after (exec (.fetch .panel (.ends 2)) fetching)).links.panel.eventsLost = false
    ∧ (after (exec (.fetch .panel (.ends 2)) (postTo (.resetNotice .bridge) .panel fetching))).links.panel.eventsLost = true := by
  decide

/-- A FETCH with two bytes clocked when a soft reset cuts it. -/
def cutFetch : State := after (exec (.partReset .bridge 1#8 []) (after (exec (.fetch .panel (.clocks 2)) fetching)))

/-- It completes with zeros, and the RESET_NOTICE placed meanwhile stays. -/
theorem test_cut_fetch : let t := after (exec (.fetch .panel (.ends 4)) cutFetch);
    t.links.panel.miso = [0x0F#8, 4#8, 2#8, 0#8, 0#8] ∧ t.links.panel.responses = [.event (.resetNotice .bridge)]
      ∧ t.links.panel.transaction = none := by decide +kernel

/-- OFFLINE 0, SUSPENDED 1, BUSY 2, IDLE 3 (R145, R182). -/
theorem test_port_state : portState boot.port = 3 ∧ portState { boot.port with command := some ⟨.reset, none, 5⟩ } = 2
    ∧ portState { boot.port with suspended := some (0, 1) } = 1 ∧ portState { boot.port with offline := true } = 0 := by decide

/-! ## More steps: guard, archive, flash -/

/-- The check word of the digits 1 to 9 (log 45). -/
theorem test_check_value : checkValue [0x31#8, 0x32#8, 0x33#8, 0x34#8, 0x35#8, 0x36#8, 0x37#8, 0x38#8, 0x39#8] = 0xCBF43926 := by
  decide +kernel
/-- A blank extent is FREE, and a word page holding a retire marker makes it RETIRED (R125). -/
theorem test_state_found : (stateFound (pagesFound [] 145 fun _ => false)).1 = .free
    ∧ (stateFound (pagesFound (programPage 145 3 retireMarker []) 145 fun _ => false)).1 = .retired := by decide +kernel

/-- A PROGRAM job of slot 1 for lesson 3, position 0, holding extent 2 and sequence number 9. -/
def job (progress checked : Nat) : ProgramJob :=
  { slot := 1, lesson := 3, position := 0, link := .panel, tag := 6#8, state := .running, progress, held := some (2, 9),
    checked, notBlank := false, cancelled := false }

/-- The port working on that job. -/
def saving (progress checked : Nat) : State :=
  let kind : FlashKind := if checked < 4 then .pageRead else .pageProgram;
  port [.program (job progress checked)] ⟨kind, some (290, 0), 2⟩
    (entered 2 { valid9 with state := .writing } (slotted 1 .saving boot))

/-- A READ job into slot 1 from extent 2. -/
def readJob (progress : Nat) : ReadJob :=
  { slot := 1, extent := 2, seq := 9, link := .panel, tag := 6#8, state := .running, progress }

/-- The port working on that job. -/
def recalling (progress : Nat) : State :=
  port [.read (readJob progress)] ⟨.pageRead, some (291, 0), 1⟩
    (entered 2 { valid9 with readers := 1 } (slotted 1 .filling boot))

/-- The port reclaiming block `b` of extent 2, with a command in flight. -/
def reclaiming (b : Nat) (kind : FlashKind) : State :=
  let s := port [] ⟨kind, some (290 + b, 0), 20⟩ (entered 2 { valid9 with state := .stale } boot);
  { s with port := { s.port with reclaim := some (2, b) }, arch := { s.arch with mount := .mounted } }

/-- The port busy with the read of a scanned page, nothing queued. -/
def busy (s : State) : State := port [] ⟨.pageRead, some (0, 0), 1⟩ s

/-- The jobs of slot 1 in the queue's other states, and a READ that waits for slot 5. -/
def queuedJob : ProgramJob := { job 0 0 with state := .queued, held := none }
def pausedJob : ProgramJob := { job 5 4 with state := .paused }
def waitingRead : ReadJob := { readJob 0 with slot := 5, extent := 7, state := .queued }

/-- Another job queue, and a change of the RUNNING PROGRAM job. -/
def queued (q : List Job) (s : State) : State := { s with port := { s.port with queue := q } }

/-- No command in flight. -/
def idle (s : State) : State := { s with port := { s.port with command := none } }

theorem test_recall_done : let t := after (exec (.readJobPageRead .data) (recalling 4607));
    (t.slot 1).state = .saved ∧ (t.entry 2).readers = 0
      ∧ t.links.panel.responses = [.event (.recallDone 6#8 1 2 9 3 0 false)] := by decide +kernel
theorem test_reclaimed : ((after (exec (.blockEraseFinish .pass) (reclaiming 0 .blockErase))).entry 2)
    = { state := .free, header := none, readers := 0, progress := 0, failures := 0 } := by decide +kernel
theorem test_erase_failed : ((after (exec (.blockEraseFinish .fail) (reclaiming 5 .blockErase))).entry 2).state = .retired := by
  decide
theorem test_deadline : (after (exec .commandDeadlineExpiry (reclaiming 5 .suspend))).port.command = some ⟨.reset, none, 5⟩ := by
  decide
theorem test_recall_suspends_erase :
    (after (exec (.recall .panel 6#8 [0#8, 3#8, 0#8]) (entered 4 valid9 (reclaiming 5 .blockErase)))).port.command
      = some ⟨.suspend, some (295, 0), 1⟩ := by decide

/-! ## States and operands that meet the hypotheses of the statements -/

theorem test_step_hypotheses : ({ boot with pending := [.dramCorrected] } : State).pending = .dramCorrected :: []
    ∧ boot.pending = [] := by decide

theorem test_exec_answers : exec .lessonClockTick boot = .next (after (exec .lessonClockTick boot)) := rfl

theorem test_taken_hypotheses :
    ((waiting [⟨1#8, 0x10#8, []⟩]).links.get .panel).commands = ⟨1#8, 0x10#8, []⟩ :: []
      ∧ (waiting [⟨1#8, 0x10#8, []⟩]).starting = false
      ∧ ((waiting [⟨1#8, 0x10#8, []⟩]).links.get .panel).responses.length < 16
      ∧ (boot.links.get .panel).commands = [] ∧ State.reset.starting = true
      ∧ 16 ≤ (full.links.get .panel).responses.length ∧ canTake full .panel = false ∧ canTake boot .panel = true
      ∧ (0x25#8).toNat = 0x25 ∧ (0xA2#8).toNat = 0xA2 := by decide

/-- A SET_LAMP with the value 2, which is refused. -/
def refusedFrame : Frame := ⟨1#8, 0x50#8, [2#8]⟩

theorem test_refused_hypotheses : canTake boot .panel = true
    ∧ exec (instrOf .panel refusedFrame) boot = .next (after (exec (instrOf .panel refusedFrame) boot))
    ∧ ((after (exec (instrOf .panel refusedFrame) boot)).links.get .panel).responses[(boot.links.get .panel).responses.length]?
      = some (.response 1#8 0x50#8 .badArgument []) := ⟨by decide, rfl, by decide⟩

theorem test_wrong_length_hypotheses : canTake boot .panel = true ∧ fixedLength (0x50#8).toNat = some 1 ∧ ([] : List Byte).length ≠ 1
    ∧ fixedLength (0x93#8).toNat = some 0 ∧ fixedLength (0x52#8).toNat = some 8 := by decide

theorem test_isolation_hypotheses : refusedFrame.code ≠ 0x93#8
    ∧ exec (instrOf .panel refusedFrame) boot = .next (after (exec (instrOf .panel refusedFrame) boot)) := ⟨by decide, rfl⟩

/-- A step to every invariant's premise: the clock ticks in a state that meets the law. -/
def ticking (s : State) : State := { s with pending := [.lessonClockTick] }

theorem test_ticking_steps : step (ticking boot) = .next (after (step (ticking boot))) := rfl

theorem test_queues_bounded : QueuesBounded (ticking full) := by
  unfold QueuesBounded LinkBounded; decide

theorem test_lamp_law : LampLaw (ticking boot) := by
  unfold LampLaw; decide

theorem test_memory_wf : MemoryWf (ticking boot) := by
  refine ⟨?_, ?_, .nil, by decide⟩ <;> decide

theorem test_profiles_in_range : ProfilesInRange (ticking boot) := by
  unfold ProfilesInRange ProfileInRange; decide

theorem test_views_in_frame : ViewsInFrame (ticking boot) := by
  refine ⟨fun q => ?_, fun q => ?_, fun q => ?_, fun l g h => ?_, fun p h => by cases h⟩
  · cases q <;> (unfold ViewInFrame; decide)
  · cases q <;> (unfold RampInRange; decide)
  · cases q <;> (unfold ViewInFrame; decide)
  · cases l <;> cases h

theorem test_flash_in_extents : FlashInExtents (ticking boot) := by
  exact ⟨nofun, nofun, nofun, nofun, by decide⟩

theorem test_jobs_law : JobsLaw (ticking (saving 5 4)).port := by
  unfold JobsLaw; decide

theorem test_dram_failure_policy : DramFailurePolicy (ticking boot) := by
  unfold DramFailurePolicy; decide

theorem test_starting_hypotheses : boot.starting = false ∧ Instr.lessonClockTick ≠ .powerOnReset
    ∧ State.reset.starting = true ∧ (∀ passed, Instr.lessonClockTick ≠ .dramCheckEnd passed)
    ∧ exec .lessonClockTick State.reset = .next State.reset := ⟨by decide, by decide, by decide, nofun, rfl⟩

/-- An ERROR record stands, and the clock ticks. -/
def faulty : State := after (exec (.malformedCommandFrame .bridge (.ends [1#8, 0x50#8])) boot)

theorem test_fault_record_hypotheses : faulty.faults.error.isSome = true
    ∧ exec .lessonClockTick faulty = .next (after (exec .lessonClockTick faulty))
    ∧ Instr.lessonClockTick ≠ .powerOnReset ∧ (∀ l tag p, Instr.lessonClockTick ≠ .clearFaults l tag p)
    ∧ (∀ l, Instr.lessonClockTick ≠ .commandTaken l) := ⟨by decide, rfl, by decide, nofun, nofun⟩

/-- While a page of block 291 is programmed, a byte of block 292 is not in the work. -/
theorem test_flash_hypotheses : ¬ InWork (saving 5 4) (pageAddress 292 0)
    ∧ exec (.pageProgramFinish .pass) (saving 5 4) = .next (after (exec (.pageProgramFinish .pass) (saving 5 4))) := by
  refine ⟨?_, rfl⟩
  unfold InWork InPage InBlock
  decide

/-- A copy of a page whose first byte is 5 into slot 3. -/
def copying : State :=
  let b := { live.ring.buffers.get 0 with content := [(0, 5#8)], pins := 1 };
  { slotted 3 .filling live with
    ring := { live.ring with buffers := live.ring.buffers.set 0 b }
    mover := ⟨[⟨.capture, .ring 0, 3, .command .panel 4#8⟩], true⟩ }

/-- A READ job reads a page whose first byte is 6. -/
def readingData : State := { recalling 0 with flash := [(pageAddress 291 0, 6#8)] }

/-- Line 1 of a frame, with one level of the line before. -/
def lineOne : State := { camera 1 boot with cond := { boot.cond with y1Last := [200] } }

theorem test_copy_writes : ((after (exec .copyComplete copying)).slot 3).content.read Config.dramBlank 0
    ≠ (copying.slot 3).content.read Config.dramBlank 0 := by decide
theorem test_read_job_writes : ((after (exec (.readJobPageRead .data) readingData)).slot 1).content.read Config.dramBlank 0
    ≠ (readingData.slot 1).content.read Config.dramBlank 0 := by decide +kernel
theorem test_line_writes :
    ((after (exec (.cameraLineEnd (.replicate 8192 0#8)) lineOne)).ring.buffers.get 1).content.read Config.dramBlank 0
      ≠ (lineOne.ring.buffers.get 1).content.read Config.dramBlank 0 := by decide +kernel

/-! ## Hypotheses of the per-command statements, clause by clause -/

theorem test_pixel_hypotheses : (255 : Nat) ≤ 255 ∧ profile0.ink = true ∧ profile0.black + 64 ≤ profile0.white
    ∧ (40 : Nat) ≤ profile0.black ∧ profile0.white ≤ 232 ∧ profile0.black < 41 ∧ 231 < profile0.white
    ∧ (Profile.defaults.get 1).ink = false ∧ profile0.chroma ≤ 16 ∧ profile0.chroma = 16
    ∧ ({ profile0 with chroma := 0 } : Profile).chroma = 0
    ∧ 191 < 4 * profile0.floor ∧ 4 * profile0.floor ≤ 192 ∧ 256 ≤ profile0.gmax ∧ 60 ≤ 60 := by decide
/-- A frame start with an unprimed map, between frames and in one. -/
theorem test_gains_formed : (between boot).intake.state ≠ .stopped ∧ (camera 5 boot).intake.state ≠ .stopped
    ∧ boot.cond.map.data = .replicate 768 1020 ∧ (boot.cond.profiles.get boot.cond.live).white ≤ 255
    ∧ (after (exec .cameraFrameStart (between boot))).cond.gains.data = .replicate 768 256
    ∧ (after (exec .cameraFrameStart (camera 5 boot))).cond.gains.data = .replicate 768 256 := by decide +kernel
/-- The four tiles around the last pixel of the frame. -/
theorem test_gain_hypotheses (a b : Nat) (h : a = 30 ∨ a = 31) (g : b = 22 ∨ b = 23) :
    256 ≤ boot.cond.gains.data.getD (32 * b + a) 0 ∧ boot.cond.gains.data.getD (32 * b + a) 0 ≤ 256 := by
  rcases h with rfl | rfl <;> rcases g with rfl | rfl <;> decide +kernel

/-- Z at both ends, and a view at the corner of the frame with the last points of its windows. -/
theorem test_window_hypotheses : (64 ≤ 64 ∧ 512 ≤ 512) ∧ ViewInFrame ⟨200, 3444, 2583, .deg180⟩
    ∧ 1303 < (windowOf ⟨200, 3444, 2583, .deg180⟩).w ∧ 977 < (windowOf ⟨200, 3444, 2583, .deg180⟩).h
    ∧ 651 < (chromaWindow (windowOf ⟨200, 3444, 2583, .deg180⟩)).w
    ∧ 488 < (chromaWindow (windowOf ⟨200, 3444, 2583, .deg180⟩)).h := by
  unfold ViewInFrame; decide

theorem test_scaler_hypotheses : 0 < 1 ∧ ∀ a b : Nat, a < 1 → b < 1 → 7 ≤ 7 + a + b ∧ 7 + a + b ≤ 7 :=
  ⟨by decide, fun a b h1 h2 => by omega⟩

/-- A policy for DRAM_CORRECTED. -/
def policed (p : FaultPolicy) (s : State) : State :=
  { s with faults := { s.faults with policy := s.faults.policy.set 2 p } }

theorem test_raising_hypotheses :
    ((policed ⟨true, .notice⟩ boot).faults.policy.get FaultKind.dramCorrected.index).masked = true
    ∧ (boot.faults.policy.get FaultKind.dramCorrected.index) = ⟨false, .notice⟩
    ∧ boot.faults.notices.get FaultKind.dramCorrected.index = false
    ∧ (after (exec .dramCorrected boot)).faults.notices.get FaultKind.dramCorrected.index = true
    ∧ (boot.faults.policy.get FaultKind.intakeLoss.index) = ⟨false, .error⟩ ∧ boot.faults.error = none
    ∧ faulty.faults.error ≠ none ∧ faulty.faults.errorNext = false
    ∧ (after (exec (.malformedCommandFrame .panel (.ends [])) faulty)).faults.errorNext = true
    ∧ (boot.faults.policy.get FaultKind.dramFailure.index) = ⟨false, .fatal⟩ ∧ boot.faults.fatal = none
    ∧ (stopped boot).faults.fatal ≠ none ∧ (stopped boot).faults.fatalNext = false
    ∧ ({ (stopped boot).faults with fatalNext := true } : Faults).fatalNext = true := by decide

theorem test_start_hypotheses : ¬ InWork (saving 5 4) (pageAddress 292 0) ∧ boot.port.command = none
    ∧ boot.port.suspended = none ∧ State.reset.starting = true ∧ DramFailurePolicy State.reset
    ∧ State.reset.faults.fatal = none ∧ boot.starting = false := by
  refine ⟨test_flash_hypotheses.1, ?_⟩
  unfold DramFailurePolicy; decide

/-- Extent 2 with the header record of its job, whose commit word is being programmed. -/
def committing : State :=
  port [.program (job 4609 4)] ⟨.pageProgram, some (290, 1), 2⟩ { boot with flash := programPage 290 0 (headerBytes header9) [] }

theorem test_power_loss_hypotheses : committing.port.command = some ⟨.pageProgram, some (145 * (2 : Fin 225).val, 1), 2⟩
    ∧ committing.port.suspended = none ∧ readHeader committing.flash (145 * 2) = some header9
    ∧ pageBlank committing.flash (145 * 2) 3 = true ∧ readHeader (programPage 290 1 (commitWord 9) committing.flash) 290 = some header9
    := by decide +kernel
/-- Bytes that would be the whole commit word are not what a cut leaves where the rules say so; other bytes stay (R134, R184). -/
theorem test_spoilt_word :
    let whole := programPage 290 1 (commitWord 9) committing.flash
    let wrong := programPage 290 1 (commitWord 8) committing.flash;
    holdsWord whole 290 1 = true ∧ holdsWord (spoilWord 290 1 whole) 290 1 = false ∧ spoilWord 290 1 wrong = wrong
      ∧ (stateFound (pagesFound (spoilWord 290 1 whole) 290 fun _ => false)).1 = .stale
      ∧ Cut.powerLoss.loses 1 = true ∧ Cut.softReset.loses 1 = true ∧ Cut.failure.loses 3 = true := by decide +kernel

/-- Link 0 exports slot 1 from an offset on. -/
def exporting (offset : Nat) : State :=
  let s := slotted 1 .held boot;
  { s with links := s.links.set .panel { s.links.panel with exporting := some ⟨1, offset, 5000⟩ } }

/-- A pending apply of the panel link. -/
def applying : State := after (exec (.apply .panel 4#8 []) (after (exec (.stageLayout .panel 3#8 [1#8]) boot)))

theorem test_link_reset_hypotheses : ((exporting 0).links.get .panel).exporting = some ⟨1, 0, 5000⟩
    ∧ (boot.links.get .panel).exporting = none ∧ boot.comp.pendingApply = none
    ∧ (applying.comp.pendingApply.map (·.link)) = some .panel := by decide

theorem test_part_reset_hypotheses : canTake boot .panel = true ∧ ([0#8] : List Byte) ≠ []
    ∧ (∀ i, ((after (exec (.partReset .panel 1#8 []) boot)).guard.overrides.get i).active = false)
    ∧ canTake committing .panel = true := by decide

/-- Whole transactions, one in progress, and one that a soft reset cut. -/
theorem test_whole_transaction (kind : TransactionKind) : InTransaction kind .panel boot (opened boot .panel) :=
  .inl ⟨rfl, rfl⟩

/-- A transaction of a kind in progress, cut or not. -/
def inProgress (kind : TransactionKind) (cut : Bool) : Transaction := ⟨0x03#8, some kind, none, [], false, cut⟩

theorem test_transaction_in_progress (kind : TransactionKind) (cut : Bool) :
    InTransaction kind .panel (boot.setTransaction .panel (some (inProgress kind cut))) (inProgress kind cut) :=
  .inr ⟨rfl, .inr rfl⟩
theorem test_other_kind : (inProgress .fetch true).kind = some .fetch ∧ TransactionKind.fetch ≠ .bulk
    ∧ (inProgress .fetch true).kind ≠ none := by decide

theorem test_frame_hypotheses : (List.replicate 60 (0#8 : Byte)).length ≤ 60 ∧ (boot.links.get .panel).commands.length < 8
    ∧ 8 ≤ ((waiting (.replicate 8 ⟨1#8, 0x10#8, []⟩)).links.get .panel).commands.length
    ∧ 60 < (61#8 : Byte).toNat ∧ (60#8 : Byte).toNat ≤ 60 ∧ ([1#8] : List Byte).length < (60#8 : Byte).toNat
    ∧ (0x34#8 : Byte) ≠ 0x31#8 ∧ (0x34#8 : Byte) ≠ 0x32#8 ∧ (0x34#8 : Byte) ≠ 0x33#8 ∧ (0x34#8 : Byte) ≠ 0x3C#8 := by decide

theorem test_fetch_hypotheses : boot.starting = false
    ∧ (full.links.get .panel).responses = .event (.resetNotice .bridge) :: .replicate 15 (.event (.resetNotice .bridge))
    ∧ State.reset.starting = true ∧ (boot.links.get .panel).responses = []
    ∧ (full.links.get .panel).transaction = none := by decide

theorem test_export_refusal_hypotheses : 23 < (24#8 : Byte).toNat ∧ halted (stopped boot) = true ∧ halted boot = false
    ∧ ((exporting 0).links.get .panel).exporting ≠ none ∧ (boot.slot 1).state = .empty
    ∧ ((slotted 1 .filling boot).slot 1).state = .filling := by decide

theorem test_export_hypotheses :
    (canTake (slotted 1 .held boot) .panel = true ∧ (1#8 : Byte).toNat = (1 : Fin 24) ∧ halted (slotted 1 .held boot) = false
      ∧ ((slotted 1 .held boot).links.get .panel).exporting = none ∧ ((slotted 1 .held boot).slot 1).state = .held)
    ∧ ((exporting 18874367).links.get .panel).exporting = some ⟨1, 18874367, 5000⟩
    ∧ 18874367 + min 1 (min 4096 (18874368 - 18874367)) = 18874368
    ∧ 18870272 + min 4095 (min 4096 (18874368 - 18870272)) < 18874368
    ∧ canTake (exporting 0) .panel = true ∧ ((exporting 0).slot 1).state ≠ .damaged := by decide

theorem test_setting_hypotheses : canTake boot .panel = true ∧ (15#8 : Byte).toNat < 16 ∧ 16 ≤ (16#8 : Byte).toNat
    ∧ halted boot = false ∧ (stopped (busy boot)).mover.queue = [] ∧ halted (stopped (busy boot)) = true
    ∧ halted (stopped copying) = true ∧ (stopped copying).mover.queue ≠ [] ∧ (stopped copying).port.command = none
    ∧ 2 < (3#8 : Byte).toNat ∧ (14#8 : Byte).toNat = (14 : Fin 15) ∧ 14 < (15#8 : Byte).toNat ∧ 3 < (4#8 : Byte).toNat := by
  decide

/-- The end of HALTED starts the head copy (R176). -/
theorem test_halted_ends :
    (after (exec (.clearFaults .panel 1#8 [2#8]) (stopped { copying with mover := { copying.mover with running := false } }))).mover
      = ⟨copying.mover.queue, true⟩ := by decide
/-- The port is busy with a page read. -/
theorem test_port_busy (s : State) : PortBusy (busy s) := ⟨_, rfl, by simp⟩

theorem test_numbered_read_hypotheses : canTake boot .panel = true ∧ (3#8 : Byte).toNat = (3 : Fin 4)
    ∧ (23#8 : Byte).toNat = (23 : Fin 24) ∧ 3 < (4#8 : Byte).toNat ∧ 23 < (24#8 : Byte).toNat ∧ (47#8 : Byte).toNat ≤ 47
    ∧ 47 < (48#8 : Byte).toNat ∧ ((767 : Fin 768) : Nat) = 32 * (23#8 : Byte).toNat + (31#8 : Byte).toNat
    ∧ 32 ≤ (32#8 : Byte).toNat ∧ 24 ≤ (24#8 : Byte).toNat ∧ boot.arch.mount ≠ .mounting
    ∧ (224#8 : Byte).toNat + 256 * (0#8 : Byte).toNat = (224 : Fin 225)
    ∧ 225 ≤ (225#8 : Byte).toNat + 256 * (0#8 : Byte).toNat
    ∧ (after (exec (.dramCheckEnd true) State.reset)).arch.mount = .mounting := by decide
theorem test_read_entry_form_hypotheses : 1 < (2#8 : Byte).toNat ∧ (1#8 : Byte).toNat ≤ 1 ∧ ([] : List Byte).length ≠ 2
    ∧ result .panel (exec (.readEntry .panel 1#8 [2#8, 0#8]) boot) = some .badArgument
    ∧ result .panel (exec (.readEntry .panel 1#8 [2#8]) (mounting boot)) = some .mounting := by decide
theorem test_read_entry_hypotheses : entryAt (entered 2 valid9 boot) 3 0 = some 2 ∧ entryAt boot 3 0 = none := by decide +kernel

theorem test_profile_hypotheses : canTake boot .panel = true ∧ (3#8 : Byte).toNat = (3 : Fin 4)
    ∧ exec (.writeProfile .panel 1#8 [3#8, 0#8, 0#8]) boot = .next (after (exec (.writeProfile .panel 1#8 [3#8, 0#8, 0#8]) boot))
    ∧ 512 ≤ (0#8 : Byte).toNat + 256 * (2#8 : Byte).toNat ∧ 3 < (4#8 : Byte).toNat := ⟨by decide, by decide, rfl, by decide⟩

/-- Every buffer COMPLETE; the first pinned. -/
def ringFull (pins : Nat) : Ring :=
  { buffers := (Table.replicate 4 ⟨.complete, 1, pins, false, []⟩).set 0 ⟨.complete, 1, 1, false, []⟩, order := [0, 1, 2, 3] }

theorem test_frame_start_hypotheses : boot.intake.state = .stopped ∧ (between live).intake.state = .between
    ∧ ((between live).ring.buffers.get 1).state = .free
    ∧ (∀ c : Fin 4, c < 1 → ((between live).ring.buffers.get c).state ≠ .free)
    ∧ (∀ c, ((ringFull 0).buffers.get c).state ≠ .free) ∧ (ringFull 0).order = [0] ++ 1 :: [2, 3]
    ∧ ((ringFull 0).buffers.get 1).pins = 0 ∧ (∀ c ∈ [(0 : Fin 4)], ((ringFull 0).buffers.get c).pins ≠ 0)
    ∧ (∀ c ∈ (ringFull 1).order, ((ringFull 1).buffers.get c).pins ≠ 0) := by decide

theorem test_truncation_hypotheses : (camera 5 boot).intake.state = .inFrame ∧ (camera 5 boot).intake.target = some 1
    ∧ (camera 5 boot).intake.lineGap.isSome = true ∧ (camera 5 boot).intake.lineOpen = true
    ∧ (List.replicate 3 (0#8 : Byte)).length < 8192 ∧ (between boot).intake.watch.isSome = true
    ∧ (between boot).intake.loss = false ∧ (after (exec .intakeWatchExpiry (between boot))).intake.loss = true
    ∧ boot.intake.watch = none ∧ (boot.faults.policy.get FaultKind.intakeLoss.index) = ⟨false, .error⟩ := by decide

theorem test_line_hypotheses : (camera 3070 boot).intake.lineCount < 3071 ∧ (camera 3071 boot).intake.lineCount = 3071
    ∧ (camera 3071 boot).intake.state = .inFrame ∧ (camera 3071 boot).intake.lineOpen = true
    ∧ boot.intake.state ≠ .inFrame ∧ boot.cond.primed = false := by decide

/-- A line of a frame with the two Y1 rows and the chroma before it, the map primed with one estimate in every tile. -/
def lined (y paper : Nat) : State :=
  { camera y boot with cond := { boot.cond with
      y1Above := .replicate 4096 200, y1Last := .replicate 4096 100, chromaEven := .replicate 2048 (90, 110)
      primed := true, map := .replicate 768 paper } }

theorem test_row_lengths (y paper : Nat) : (lined y paper).cond.y1Last.length = 4096
    ∧ (lined y paper).cond.y1Above.length = 4096 ∧ (lined y paper).cond.chromaEven.length = 2048 :=
  ⟨List.length_replicate, List.length_replicate, List.length_replicate⟩
theorem test_primed_hypotheses : (lined 3071 60).cond.primed = true ∧ (lined 3071 60).intake.loss = false
    ∧ (lined 3071 60).intake.lossEnded = false ∧ (lined 3071 60).guard.lossLevel = false
    ∧ (lined 3071 60).cond.latched.smooth ≤ 8 := by decide
/-- A frame counted all black moves every tile away from an estimate of 1020, and none away from 64. -/
theorem test_scene_change : (completeStatistics 1 1 false (lined 3071 1020)).cond.sceneChanges = 1 := by decide +kernel
theorem test_no_scene_change :
    let t := completeStatistics 1 1 false (lined 3071 64);
    t.cond.sceneChanges = 0 ∧ t.cond.map.get 0 = 62 := by decide +kernel
theorem test_whole_line (b : Byte) : 8192 ≤ (List.replicate 8192 b).length :=
  Nat.le_of_eq List.length_replicate.symm

theorem test_view_hypotheses : canTake boot .panel = true ∧ 1 < (2#8 : Byte).toNat ∧ panned.starting = false
    ∧ panned.comp.pendingApply = none ∧ 64 ≤ (160 : Nat)
    ∧ panned.comp.unfreeze = ⟨none, none⟩ ∧ panned.comp.freeze = ⟨.none, .none⟩
    ∧ (applying.comp.pendingApply.map fun p => p.staged.viewMarks.get .zero) = some false := by decide
theorem test_frame_start_answers : exec .outputFrameStart panned = .next (after (exec .outputFrameStart panned)) := rfl

theorem test_adoption_hypotheses : applying.starting = false ∧ anyActive applying.guard = false
    ∧ applying.comp.pendingApply.isSome = true ∧ applying.comp.unfreeze.get .zero = none
    ∧ anyActive (after (exec (.debounceRunExpiry .armFold) (after (exec (.armFoldChange true) boot)))).guard = true
    ∧ boot.comp.pendingApply = none ∧ State.reset.starting = true := by decide
/-- A staged view of pane 0, applied. -/
def applyingView : State :=
  let staged := after (exec (.stagePane .panel 3#8 [0#8, 0x1E#8, 128#8, 0#8, 0#8, 8#8, 0#8, 6#8, 1#8]) boot);
  after (exec (.apply .panel 4#8 []) staged)

theorem test_delivery_hypotheses : (applyingView.comp.pendingApply.map fun p => p.staged.viewMarks.get .zero) = some true
    ∧ anyActive applyingView.guard = false ∧ applyingView.comp.unfreeze.get .zero = none
    ∧ applyingView.comp.freeze.get .zero = .none := by decide
/-- The delivered view is the staged one, Z 128 at the centre (2048, 1536) and rotated. -/
theorem test_delivery : (after (exec .outputFrameStart applyingView)).view.views.pane0 = ⟨128, 2048, 1536, .deg180⟩ := by decide
theorem test_adoption_answers : exec .outputFrameStart applying = .next (after (exec .outputFrameStart applying)) := rfl
theorem test_nothing_ready (q : Pane) (l : Link) (g : Byte) : applying.comp.freeze.get q ≠ .ready l g := by
  cases q <;> exact nofun

theorem test_late_line_hypotheses :
    let s := after (exec .outputFrameStart boot);
    s.comp.scanning = true ∧ 1079 ∉ s.comp.lateLines ∧ s.comp.lateLines = [] ∧ boot.comp.scanning = false
      ∧ (after (exec (.lateLine 3) s)).comp.lateLines ≠ [] := by decide

/-- Pane 1 shows slot 1, and the port is busy. -/
def showing : State :=
  let s := slotted 1 .saved (busy live)
  let d := { s.comp.display.pane1 with slotPin := some 1, shown := .picture, page := .slot 1 };
  { s with comp := { s.comp with display := s.comp.display.set .one d } }

/-- An output frame shows ring buffer 0 in pane 0; with no picture there is no page; and a frame with two panes. -/
theorem test_video_hypotheses :
    let s := after (exec .outputFrameStart live)
    let u := after (exec (.lateLine 3) (after (exec (.lateLine 0) s)));
    s.comp.scanning = true ∧ s.comp.lateLines = [] ∧ s.comp.active.layout = .single
      ∧ (s.comp.display.get .zero).page = .ring 0
      ∧ (s.ring.buffers.get 0).damaged = false
      ∧ u.comp.lateLines = [0, 3] ∧ boot.comp.scanning = false
      ∧ ((after (exec .outputFrameStart boot)).comp.display.get .zero).page = .none
      ∧ (after (exec .outputFrameStart applying)).comp.active.layout = .split
      ∧ (showing.comp.display.get .one).page = .slot 1 ∧ (showing.slot 1).state ≠ .damaged := by decide
/-- The bars are black beside the picture of SINGLE (R45, R75). -/
theorem test_bars : let s := after (exec .outputFrameStart live);
    videoSample s 239 0 = ⟨16, 128, 128⟩ ∧ videoSample s 1680 1079 = ⟨16, 128, 128⟩
      ∧ videoSample s 240 0 = ⟨0, 0, 0⟩ := by decide +kernel

theorem test_read_error_hypotheses : (live.ring.buffers.get 0).state = .complete ∧ (live.ring.buffers.get 0).damaged = false
    ∧ (let s := after (exec .outputFrameStart live);
      (s.comp.display.get .zero).page = .ring 0 ∧ (s.comp.display.get .zero).shown = .picture
        ∧ (s.ring.buffers.get 0).state = .complete ∧ (s.ring.buffers.get 0).damaged = false
        ∧ (after (exec (.ringReadUncorrectable 0) s)).ring.buffers.get 0 = { s.ring.buffers.get 0 with damaged := true })
    ∧ (live.comp.display.get .zero).page ≠ .ring 0 ∧ (live.comp.display.get .one).page ≠ .ring 0
    ∧ (showing.comp.display.get .one).page = .slot 1
    ∧ (showing.slot 1).state = .saved ∧ ((slotted 1 .damaged showing).slot 1).state = .damaged := by decide

theorem test_stage_hypotheses : canTake boot .panel = true ∧ 1 < (2#8 : Byte).toNat ∧ (23#8 : Byte).toNat = (23 : Fin 24)
    ∧ 3 < (4#8 : Byte).toNat ∧ 23 < (24#8 : Byte).toNat
    ∧ ((after (exec (.stageLayout .panel 3#8 [1#8]) boot)).comp.staged.get .panel).isSome = true
    ∧ boot.comp.pendingApply = none ∧ applying.comp.pendingApply.isSome = true ∧ boot.comp.staged.get .panel = none := by decide

theorem test_freeze_hypotheses : canTake live .panel = true ∧ halted live = false ∧ (live.slot 0).pins = 0
    ∧ live.mover.queue.length < 4 ∧ live.ring.order.getLast? = some 0
    ∧ (∀ r ∈ live.mover.queue, r.source = .ring 0) ∧ boot.ring.order = [] ∧ live.comp.freeze.get .zero = .none
    ∧ halted (stopped live) = true ∧ 0 < ((slotPin 0 live).slot 0).pins ∧ 1 < (2#8 : Byte).toNat := by decide

/-- The pin at 1,000,000 microvolts lies above the threshold of code 212 and below that of code 213. -/
theorem test_lamp_hypotheses : canTake boot .panel = true ∧ 1 < (2#8 : Byte).toNat
    ∧ 1000000 * 255 > (212#8 : Byte).toNat * 1200000 ∧ 1000000 * 255 < (213#8 : Byte).toNat * 1200000 := by decide

theorem test_debounce_hypotheses :
    let s := after (exec (.armFoldChange true) (after (exec (.lampSenseChange 1200000) boot)));
    boot.starting = false ∧ State.reset.starting = true ∧ s.guard.arm.run.isSome = true ∧ s.guard.lamp.run.isSome = true
      ∧ 1200000 * 255 > boot.guard.threshold * 1200000 ∧ 0 * 255 < boot.guard.threshold * 1200000 := by decide
theorem test_follow_answers :
    let s := after (exec (.armFoldChange true) boot);
    exec (.debounceRunExpiry .armFold) s = .next (after (exec (.debounceRunExpiry .armFold) s)) := rfl
/-- Override 1 becomes ACTIVE as the arm folds, and ends as it opens. -/
theorem test_follow_hypotheses :
    let s := after (exec (.armFoldChange true) boot)
    let t := after (exec (.armFoldChange false) (after (exec (.debounceRunExpiry .armFold) s)));
    (s.guard.overrides.get 1).record.source = .armFold ∧ (s.guard.overrides.get 1).active = false
      ∧ (s.guard.overrides.get 1).record.enabled = true ∧ s.guard.arm.raw = (s.guard.overrides.get 1).record.matchValue
      ∧ (t.guard.overrides.get 1).active = true ∧ (t.guard.overrides.get 1).record.latching = false
      ∧ t.guard.arm.raw ≠ (t.guard.overrides.get 1).record.matchValue ∧ t.guard.arm.run.isSome = true := by decide

/-- The camera goes and comes back, as the INTAKE_LOSS source follows it. -/
theorem test_source_hypotheses :
    let s := between boot
    let t := { camera 3071 boot with
      intake := { (camera 3071 boot).intake with loss := true }, guard := { boot.guard with lossLevel := true } };
    s.intake.state = .between ∧ s.intake.watch.isSome = true ∧ s.intake.loss = false ∧ s.guard.lossLevel = false
      ∧ t.intake.state = .inFrame ∧ t.intake.lineOpen = true ∧ t.intake.target = some 1 ∧ t.intake.lineCount = 3071
      ∧ t.intake.loss = true ∧ t.guard.lossLevel = true := by decide
/-- A burned-out lamp: override 0 becomes ACTIVE, OVERRIDE_ON goes to both links, and its fault is noticed (R86). -/
theorem test_lamp_lost :
    let t := after (exec (.debounceRunExpiry .lampSense) (after (exec (.lampSenseChange 1200000) boot)))
    let on : Event := .overrideOn 0 .lampSense true .none .both .forceOff 0;
    (t.guard.overrides.get 0).active = true ∧ t.links.bridge.responses = [.event on]
      ∧ t.faults.notices.get FaultKind.overrideTriggered.index = true := by decide

/-- Override 1 ACTIVE, its source no longer matching. -/
def overridden (level : Bool) : State :=
  { boot with guard := { boot.guard with
      arm := ⟨level, level, none⟩
      overrides := boot.guard.overrides.set 1 { boot.guard.overrides.get 1 with active := true } } }

theorem test_override_hypotheses : canTake boot .panel = true ∧ (1#8 : Byte).toNat = (1 : Fin 3)
    ∧ (readOverrideRecord 1#8 1#8 0#8 0#8 1#8 2#8 0#8).isSome = true
    ∧ readOverrideRecord 2#8 1#8 0#8 0#8 1#8 2#8 0#8 = none
    ∧ (boot.guard.overrides.get 1).active = false ∧ sourceLevel boot.guard .armFold = some false
    ∧ ((overridden false).guard.overrides.get 1).active = true
    ∧ sourceLevel (overridden false).guard ((overridden false).guard.overrides.get 1).record.source
      ≠ some ((overridden false).guard.overrides.get 1).record.matchValue
    ∧ sourceLevel (overridden true).guard ((overridden true).guard.overrides.get 1).record.source
      = some ((overridden true).guard.overrides.get 1).record.matchValue
    ∧ sourceLevel (overridden false).guard ((overridden false).guard.overrides.get 1).record.source = some false
    ∧ 2 < (3#8 : Byte).toNat := by decide

/-- The interval channel has counted down. -/
def expired (mode : IntervalMode) (s : State) : State :=
  { s with store := { s.store with interval := ⟨true, 5, mode, 0, some .panel⟩ } }

theorem test_clock_hypotheses : canTake boot .panel = true ∧ boot.starting = false ∧ State.reset.starting = true
    ∧ 1 < (2#8 : Byte).toNat ∧ (expired .once boot).store.interval.running = true
    ∧ boot.store.interval.running = false := by decide

/-- A lesson list of all 23 slots. -/
def lessonFull (s : State) : State := { s with store := { s.store with lesson := (List.finRange 24).drop 1 } }

theorem test_lesson_hypotheses : canTake boot .panel = true ∧ (23 : Fin 24) ≠ 0 ∧ (23#8 : Byte).toNat = (23 : Fin 24)
    ∧ ((slotted 23 .held boot).slot 23).state ≠ .empty ∧ (slotted 23 .held boot).store.lesson.length < 23
    ∧ 23 ∉ (slotted 23 .held boot).store.lesson ∧ (boot.slot 23).state = .empty ∧ 23 ≤ (lessonFull boot).store.lesson.length
    ∧ (lessonFull boot).store.lesson[(22#8 : Byte).toNat]? = some 23
    ∧ (lessonFull boot).store.lesson.length ≤ (23#8 : Byte).toNat ∧ 23 < (24#8 : Byte).toNat
    ∧ ([] : List Byte).length ≠ 1 ∧ ([] : List Byte).length ≠ 2 := by decide
theorem test_delete_slot_hypotheses : halted (stopped boot) = true ∧ halted boot = false ∧ (boot.slot 2).state = .empty
    ∧ ((slotted 2 .filling boot).slot 2).state = .filling ∧ 0 < ((slotPin 2 (slotted 2 .held boot)).slot 2).pins
    ∧ ((slotted 2 .held boot).slot 2).pins = 0 ∧ 23 < (24#8 : Byte).toNat := by decide

theorem test_capture_hypotheses : canTake live .panel = true ∧ (23#8 : Byte).toNat = (23 : Fin 24)
    ∧ halted live = false ∧ halted (stopped live) = true ∧ 23 ≤ (lessonFull live).store.lesson.length
    ∧ live.store.lesson.length < 23 ∧ ((slotted 23 .held live).slot 23).state ≠ .empty ∧ (live.slot 23).state = .empty
    ∧ boot.ring.order = [] ∧ live.mover.queue.length < 4 ∧ live.ring.order.getLast? = some 0
    ∧ (∀ r ∈ live.mover.queue, r.source = .ring 0) := by decide

/-- Slot 0 holds a frozen page. -/
def frozen (v : SlotState) : State :=
  boot.setSlot 0 { Slot.reset with state := v, info := some ⟨.freeze, 7, 2, View.reset⟩ }

/-- Pane 0 is READY with slot 0 in a state. -/
def ready (v : SlotState) : State :=
  { frozen v with comp := { boot.comp with freeze := ⟨.ready .panel 4#8, .none⟩ } }

/-- A READY pane shows slot 0, pinned (R69, R71), or becomes BLANK, or waits. -/
theorem test_freeze_switch :
    let t (v : SlotState) : State := after (exec .outputFrameStart (ready v));
    ((t .held).comp.active.sources.pane0 = .freeze ∧ ((t .held).slot 0).pins = 1
        ∧ (t .held).comp.display.pane0.page = .slot 0
        ∧ (t .held).links.panel.responses = [.event (.frozen .zero .switched 1 4#8)])
      ∧ (t .empty).links.panel.responses = [.event (.frozen .zero .blanked 1 4#8)]
      ∧ (t .filling).comp.freeze.pane0 = .ready .panel 4#8 := by decide
/-- A pane held by override 1 keeps the buffer of its current pin, and is shown HELD (R74, R78); nothing is fetched for it, and
no other pane shows the buffer (R56). -/
theorem test_held_pane :
    let s := after (exec .outputFrameStart live)
    let t := after (exec .outputFrameStart { s with guard := (overridden true).guard });
    t.comp.heldBuffer = some 0 ∧ (t.ring.buffers.get 0).pins = 1
      ∧ t.comp.display.pane0 = ⟨none, true, true, none, .held, .ring 0⟩
      ∧ (t.comp.display.get .one).page ≠ .ring 0 ∧ readsRing t 0 = false := by decide

theorem test_capture_frozen_hypotheses : ((frozen .held).slot 0).state = .held ∧ ((frozen .damaged).slot 0).state = .damaged
    ∧ (boot.slot 0).state = .empty ∧ ((frozen .filling).slot 0).state = .filling
    ∧ ((frozen .held).slot 0).info = some ⟨.freeze, 7, 2, View.reset⟩ ∧ (frozen .held).mover.queue.length < 4
    ∧ ((slotted 1 .held (frozen .held)).slot 2).state = .empty
    ∧ (∀ m : Fin 24, m ≠ 0 → m < 2 → ((slotted 1 .held (frozen .held)).slot m).state ≠ .empty)
    ∧ 1 < (2#8 : Byte).toNat ∧ 23 < (24#8 : Byte).toNat ∧ (254#8 : Byte) ≠ 0xFF#8 := by decide
/-- ANY takes the lowest EMPTY slot; the record takes slot 0's time. -/
theorem test_capture_any : let t := after (exec (.capture .panel 1#8 [1#8, 0xFF#8, 0#8, 0#8]) (slotted 1 .held (frozen .held)));
    (t.slot 2).info = some ⟨.capture, 7, 2, View.reset⟩ ∧ (t.slot 0).pins = 1 := by decide

/-- No slot is EMPTY. -/
def crowded : State := { expired .repeating live with
  store := { (expired .repeating live).store with slots := .replicate 24 { Slot.reset with state := .held } } }

theorem test_interval_hypotheses : (expired .once live).store.interval.running = true
    ∧ (expired .once live).store.interval.remaining = 0 ∧ halted (stopped (expired .once live)) = true
    ∧ ((overridden true).guard.overrides.get 1).record.paneAction ≠ .none
    ∧ (∀ i, ¬ ((live.guard.overrides.get i).active = true)) ∧ 23 ≤ (lessonFull (expired .once live)).store.lesson.length
    ∧ (∀ n, (crowded.slot n).state ≠ .empty) ∧ ((expired .once live).slot 1).state = .empty
    ∧ (∀ m : Fin 24, m < 1 → m = 0) ∧ (expired .once boot).ring.order = [] ∧ live.ring.order.getLast? = some 0
    ∧ boot.store.interval.running = false := by decide

theorem test_copy_hypotheses : copying.mover.running = true
    ∧ copying.mover.queue = ⟨.capture, .ring 0, 3, .command .panel 4#8⟩ :: [] ∧ boot.mover.running = false
    ∧ (after (exec (.freeze .panel 4#8 [0#8]) live)).mover.running = true
    ∧ (after (exec (.freeze .panel 4#8 [0#8]) live)).mover.queue = ⟨.freeze, .ring 0, 0, .command .panel 4#8⟩ :: []
    ∧ (after (exec (.freeze .panel 4#8 [0#8]) live)).comp.freeze.get .zero = .copying .panel 4#8 := by decide
theorem test_copy_of_slot_0_hypotheses :
    let s := after (exec (.capture .panel 4#8 [1#8, 3#8, 0#8, 0#8]) (frozen .held))
    let u := after (exec .intervalExpiry (expired .once live));
    s.mover.running = true ∧ s.mover.queue = ⟨.capture, .slot0, 3, .command .panel 4#8⟩ :: [] ∧ (s.slot 0).state = .held
      ∧ u.mover.running = true ∧ u.mover.queue = ⟨.capture, .ring 0, 1, .interval⟩ :: []
      ∧ ((after (exec (.capture .panel 4#8 [1#8, 3#8, 0#8, 0#8]) (frozen .damaged))).slot 0).state = .damaged := by decide
/-- A copy from a HELD slot 0 that fails makes it DAMAGED. -/
theorem test_copy_of_slot_0_failed :
    let t := after (exec .copyFailed (after (exec (.capture .panel 4#8 [1#8, 3#8, 0#8, 0#8]) (frozen .held))));
    (t.slot 0).state = .damaged ∧ (t.slot 3).state = .empty
      ∧ t.faults.error = some ⟨.dramUncorrectable, .internal, .slot 0, none, 0, 0⟩ := by decide

/-- A failed freeze copy tells its issuer FROZEN FAILED with output frame number 0, and its fault (R69, R101). -/
theorem test_freeze_copy_failed :
    let t := after (exec .copyFailed (after (exec (.freeze .panel 4#8 [0#8]) live)));
    t.comp.freeze.pane0 = .none ∧ (t.slot 0).state = .empty ∧ (t.ring.buffers.get 0).pins = 0
      ∧ t.links.panel.responses.getLast? = some (.event (.frozen .zero .failed 0 4#8))
      ∧ t.faults.error = some ⟨.dramUncorrectable, .internal, .ring 0, none, 0, 0⟩ := by decide

/-! ## Hypotheses of the archive's and the port's statements -/

/-- A lesson list of slot 1, which is HELD, with the port busy. -/
def lessonOne : State := busy { slotted 1 .held boot with store := { (slotted 1 .held boot).store with lesson := [1] } }

theorem test_archive_refusals_hypotheses : canTake boot .panel = true ∧ halted (stopped boot) = true ∧ halted boot = false
    ∧ (mounting boot).arch.mount = .mounting ∧ boot.arch.mount ≠ .mounting ∧ (offline boot).port.offline = true
    ∧ boot.port.offline = false ∧ (3#8 : Byte) ≠ 0#8 ∧ (224#8 : Byte).toNat + 256 * (0#8 : Byte).toNat < 225
    ∧ 225 ≤ (225#8 : Byte).toNat + 256 * (0#8 : Byte).toNat ∧ (saving 5 4).port.queue ≠ [] ∧ 0 < (23#8 : Byte).toNat
    ∧ (23#8 : Byte).toNat < 24 ∧ 23 < (24#8 : Byte).toNat := by decide

/-- The PROGRAM jobs that SAVE_LESSON of lesson 3 would queue. -/
def todo (s : State) : List (Fin 24 × Nat) := s.store.lesson.zipIdx.filter fun p => decide (saveAction s 3 p.2 p.1 = .programmed)

/-- The lesson whose list is slot 1 and whose position 1 an entry still holds, linked by slot 9. -/
def shortened : State :=
  (entered 2 { valid9 with header := some { header9 with position := 1 } } lessonOne).setSlot 9
    { Slot.reset with state := .saved, link := some ⟨2, 9⟩ }

theorem test_save_hypotheses : lessonTail lessonOne 3 1 = [] ∧ todo lessonOne = [(1, 0)]
    ∧ 48 < (queued (.replicate 48 (.retire 2 false)) lessonOne).port.queue.length + (todo lessonOne).length
    ∧ lessonOne.port.queue.length + (todo lessonOne).length ≤ 48 ∧ (todo lessonOne).length ≤ stateCount lessonOne .free
    ∧ lessonOne.arch.highest < 4294967295
    ∧ stateCount { lessonOne with arch := { lessonOne.arch with entries := .replicate 225 valid9 } } .free = 0
    ∧ (busy boot).store.lesson = [] ∧ lessonTail (entered 2 valid9 (busy boot)) 3 0 = [2]
    ∧ lessonTail shortened 3 1 = [2] ∧ todo shortened = [(1, 0)] := by decide +kernel
theorem test_save_tail : let t := after (exec (.saveLesson .panel 1#8 [3#8]) shortened);
    (t.entry 2).state = .stale ∧ (t.slot 9).state = .held ∧ (t.slot 1).state = .saving
      ∧ t.port.queue.map Job.isWord = [true, false]
      ∧ answer .panel (exec (.saveLesson .panel 1#8 [3#8]) shortened)
        = some (.response 1#8 0x70#8 .accepted [1#8, 0#8, 0#8, 0#8, 1#8]) := by decide +kernel

theorem test_cancel_hypotheses : canTake (saving 5 4) .panel = true ∧ (1#8 : Byte).toNat = (1 : Fin 24)
    ∧ (saving 5 4).arch.mount ≠ .mounting ∧ (saving 5 4).port.offline = false
    ∧ (saving 5 4).port.queue = [] ++ .program (job 5 4) :: [] ∧ (job 5 4).slot = 1 ∧ (job 5 4).state = .running
    ∧ (port [.program queuedJob] ⟨.reset, none, 5⟩ boot).port.queue = [] ++ .program queuedJob :: []
    ∧ queuedJob.slot = 1 ∧ queuedJob.state = .queued ∧ (job 5 4).slot ≠ 2 := by decide
theorem test_cancel_job_at : JobAt (saving 5 4).port [] (.program (job 5 4)) []
    ∧ JobAt (queued [.retire 9 false, .program queuedJob] boot).port [.retire 9 false] (.program queuedJob) []
    ∧ JobAt (queued [.program pausedJob] (saving 5 4)).port [] (.program pausedJob) [] ∧ pausedJob.state = .paused
    ∧ pausedJob.held = some (2, 9) ∧ ((saving 5 4).entry 2).state = .writing := by unfold JobAt; decide
theorem test_cancel_paused : let t := after (exec (.cancelSave .panel 1#8 [1#8]) (idle (queued [.program pausedJob] (saving 5 4))));
    t.port.queue = [] ∧ (t.entry 2).state = .stale ∧ (t.slot 1).state = .held := by decide

/-- A valid entry to recall, with the port busy. -/
def archived : State := entered 2 valid9 (busy boot)

theorem test_recall_hypotheses : canTake archived .panel = true ∧ halted archived = false ∧ archived.arch.mount ≠ .mounting
    ∧ archived.port.offline = false ∧ entryAt archived 3 0 = some 2 ∧ entryWithSeq archived 9 = some 2
    ∧ entryAt archived 3 1 = none ∧ (archived.entry 2).header = some header9 ∧ presentSlot archived 2 = none
    ∧ (archived.slot 1).state = .empty ∧ (∀ m : Fin 24, m ≠ 0 → m < 1 → (archived.slot m).state ≠ .empty)
    ∧ archived.port.queue.length < 48
    ∧ (∀ n, n ≠ 0 → ((entered 2 valid9 (busy crowded)).slot n).state ≠ .empty)
    ∧ presentSlot (entered 2 valid9 (busy crowded)) 2 = none
    ∧ 48 ≤ (port (.replicate 48 (.retire 3 false)) ⟨.reset, none, 5⟩ archived).port.queue.length
    ∧ presentSlot (archived.setSlot 5 { Slot.reset with state := .saved, link := some ⟨2, 9⟩ }) 2 = some 5 := by
  decide +kernel

/-- A valid entry to recall while reclaim erases a block of another extent. -/
def erasing : State := entered 4 valid9 (reclaiming 5 .blockErase)

theorem test_recall_in_erase_hypotheses : canTake erasing .panel = true ∧ halted erasing = false
    ∧ erasing.arch.mount = .mounted ∧ erasing.port.offline = false ∧ entryAt erasing 3 0 = some 4
    ∧ presentSlot erasing 4 = none ∧ (erasing.slot 1).state = .empty ∧ erasing.port.queue.length < 48
    ∧ erasing.port.command = some ⟨.blockErase, some (295, 0), 20⟩
    ∧ archived.port.command = some ⟨.pageRead, some (0, 0), 1⟩ := by decide +kernel
theorem test_recall_lesson_hypotheses : lessonOne.store.lesson ≠ [] ∧ archived.store.lesson = []
    ∧ lessonEntries archived 4 = [] ∧ lessonEntries archived 3 = [(2, header9)]
    ∧ emptyCount (entered 2 valid9 (busy crowded)) < 1 ∧ 1 ≤ emptyCount archived
    ∧ 48 < (port (.replicate 48 (.retire 3 false)) ⟨.reset, none, 5⟩ archived).port.queue.length + 1
    ∧ archived.port.queue.length + 1 ≤ 48
    ∧ (port (.replicate 48 (.retire 3 false)) ⟨.reset, none, 5⟩ archived).port.queue.length ≤ 48 := by decide +kernel

/-- Lesson 3 with its position 1 in extent 2 and its position 0 in extent 4; slot 9 holds position 2. -/
def lessonOfThree : State :=
  let placed (n : Nat) : Entry := { valid9 with header := some { header9 with position := n } };
  (entered 2 (placed 1) (entered 4 (placed 0) (entered 6 (placed 2) (busy boot)))).setSlot 9
    { Slot.reset with state := .saved, link := some ⟨6, 9⟩ }

/-- The list rises by position; the two pages not present are read into the lowest EMPTY slots (R138). -/
theorem test_recall_lesson : let t := after (exec (.recallLesson .panel 1#8 [3#8]) lessonOfThree);
    t.store.lesson = [1, 2, 9] ∧ answer .panel (exec (.recallLesson .panel 1#8 [3#8]) lessonOfThree)
        = some (.response 1#8 0x73#8 .accepted [2#8, 1#8])
      ∧ t.port.queue = [.read ⟨1, 4, 9, .panel, 1#8, .queued, 0⟩, .read ⟨2, 2, 9, .panel, 1#8, .queued, 0⟩] := by
  decide +kernel

theorem test_delete_archived_hypotheses : canTake archived .panel = true ∧ (2#8 : Byte).toNat + 256 * (0#8 : Byte).toNat = (2 : Fin 225)
    ∧ (boot.entry 2).state ≠ .valid ∧ (archived.entry 2).state = .valid ∧ (archived.entry 2).header = some header9
    ∧ header9.seq = (9#8 : Byte).toNat + 256 * (0#8 : Byte).toNat + 65536 * (0#8 : Byte).toNat + 16777216 * (0#8 : Byte).toNat
    ∧ (archived.entry 2).readers = 0 ∧ 0 < ((entered 2 { valid9 with readers := 1 } boot).entry 2).readers
    ∧ 48 ≤ (port (.replicate 48 (.retire 3 false)) ⟨.reset, none, 5⟩ archived).port.queue.length
    ∧ archived.port.queue.length < 48 ∧ boot.port.queue = [] ∧ boot.port.command = none ∧ archived.port.command ≠ none
    ∧ (offline boot).port.offline = true := by decide +kernel

/-- The mount reads a page of an extent's header block. -/
def scanning (e : Nat) (bad : List Bool) : State :=
  let s := mounting (port [] ⟨.pageRead, some (145 * e, bad.length), 1⟩ boot);
  { s with arch := { s.arch with scan := ⟨e, bad, false⟩ } }

/-- The page is read for the second time. -/
def again (e : Nat) (bad : List Bool) : State :=
  let s := scanning e bad;
  { s with arch := { s.arch with scan := ⟨e, bad, true⟩ } }

/-- A flash reset in flight. -/
def resetting (s : State) : State := port [] ⟨.reset, none, 5⟩ s

theorem test_mount_hypotheses : (scanning 224 [false, false, false]).port.command = some ⟨.pageRead, some (32480, 3), 1⟩
    ∧ (scanning 224 [false, false, false]).arch.mount = .mounting
    ∧ (scanning 224 [false, false, false]).arch.scan.extent = (224 : Fin 225).val
    ∧ (scanning 223 [false, true]).arch.scan.bad.length < 3 ∧ (scanning 223 [false, true, false]).arch.scan.bad.length = 3
    ∧ (223 : Fin 225).val < 224 ∧ (scanning 224 [false, false, false]).port.queue = []
    ∧ pageBlank (scanning 0 []).flash 0 0 = true ∧ pageBlank (scanning 0 []).flash 0 3 = true
    ∧ (again 223 [false, true, false]).arch.scan.again = true ∧ (again 223 [false, true, false]).port.suspended = none
    ∧ (again 223 [true]).arch.scan.bad.length < 3 := by decide

/-- The scan has found extents 2, 4 and 7: two entries of one place, with sequence numbers 9 and 8, and one of another. -/
def found : State :=
  let s := entered 2 valid9 (entered 4 { valid9 with header := some { header9 with seq := 8 } }
    (entered 7 { valid9 with header := some { header9 with seq := 7, position := 1 } } (scanning 224 [false, false, false])));
  (s.setSlot 3 { Slot.reset with state := .saved, link := some ⟨11, 9⟩ }).setSlot 5
    { Slot.reset with state := .saved, link := some ⟨4, 8⟩ }

/-- The mount ends: the lower of the two is a duplicate, slot 3 takes extent 2, slot 5 loses its link, MOUNT_DONE (R126). -/
theorem test_mount_ends : let t := after (exec (.mountPageRead .data) found);
    t.arch.mount = .mounted ∧ t.arch.highest = 9 ∧ (t.entry 4).state = .stale ∧ (t.entry 2).state = .valid
      ∧ t.port.queue = [.withdraw 4 true] ∧ (t.slot 3).link = some ⟨2, 9⟩
      ∧ ((t.slot 5).link = none ∧ (t.slot 5).state = .held)
      ∧ t.links.bridge.responses = [.event (.mountDone .powerOn .complete 222 0 2 1 0 1 1)] := by decide +kernel
/-- OFFLINE ends the mount at extent 223: what it has not scanned is STALE, and no WITHDRAW job is queued (R127). -/
theorem test_mount_offline :
    let t := after (exec .flashResetExpiry { found with
      arch := { found.arch with scan := ⟨223, [], false⟩ }, port := (resetting boot).port });
    t.arch.mount = .unmounted ∧ t.port.queue = [] ∧ t.port.offline = true
      ∧ t.links.panel.responses.head? = some (.event (.fault .error .flashOffline .internal .none 0 .first))
      ∧ t.links.panel.responses.getLast? = some (.event (.mountDone .powerOn .flashOffline 220 0 2 3 0 1 1)) := by
  decide +kernel

theorem test_program_hypotheses : JobAt (saving 0 3).port [] (.program (job 0 3)) []
    ∧ JobAt (queued [.read waitingRead, .program (job 0 3), .retire 9 false] (saving 0 3)).port [.read waitingRead]
        (.program (job 0 3)) [.retire 9 false]
    ∧ (job 0 3).state = .running ∧ (job 0 3).held = some (2, 9) ∧ (job 0 3).cancelled = false
    ∧ ((saving 0 3).slot (job 0 3).slot).state ≠ .damaged ∧ halted (saving 0 3) = false
    ∧ (saving 0 3).port.command = some ⟨.pageRead, some (290, 0), 2⟩ ∧ pageBlank (saving 0 3).flash (145 * 2) 3 = true
    ∧ (job 0 2).checked < 3 ∧ (job 0 3).checked = 3 ∧ (job 0 3).notBlank = false
    ∧ (saving 4608 4).port.command = some ⟨.pageProgram, some (290, 0), 2⟩ ∧ 4 ≤ (job 4608 4).checked
    ∧ (job 4608 4).progress < 4609 ∧ ((saving 0 3).entry 2).state = .writing ∧ ((saving 0 3).entry 0).state = .free
    ∧ waitingRead.state = .queued ∧ halted (stopped (saving 0 3)) = true := by unfold JobAt; decide
/-- No FREE entry is left. -/
def crammed : State :=
  let s := saving 0 3;
  { s with arch := { s.arch with entries := (Table.replicate 225 valid9).set 2 { valid9 with state := .writing } } }

theorem test_failed_check : (∀ f, (crammed.entry f).state ≠ .free)
    ∧ (let t := after (exec (.blankCheckRead .uncorrectable) crammed); t.port.queue = [] ∧ (t.entry 2).state = .stale)
    ∧ let t := after (exec (.blankCheckRead .uncorrectable) (saving 0 3));
      (t.entry 2).state = .stale ∧ (t.entry 0).header.map (·.seq) = some 9
        ∧ t.port.command = some ⟨.pageRead, some (0, 0), 1⟩ := by decide +kernel
theorem test_read_pauses_save :
    let t := after (exec (.blankCheckRead .data) (mounted (queued [.program (job 0 1), .read waitingRead] (saving 0 1))));
    t.port.queue = [.program { job 0 2 with state := .paused }, .read { waitingRead with state := .running }] := by
  decide +kernel
theorem test_no_read_waits (r : ReadJob) (h : Job.read r ∈ (saving 0 3).port.queue) : r.state ≠ .queued := by
  cases h with
  | tail _ h => cases h

/-- The entry 7 that the save of slot 1 replaces, linked by slot 9. -/
def replacing : State :=
  (entered 7 { valid9 with header := some { header9 with seq := 4 } } (saving 4609 4)).setSlot 9
    { Slot.reset with state := .saved, link := some ⟨7, 4⟩ }

theorem test_save_end_hypotheses : JobAt (saving 4609 4).port [] (.program (job 4609 4)) []
    ∧ (saving 4609 4).port.command = some ⟨.pageProgram, some (290, 0), 2⟩ ∧ (job 4609 4).progress = 4609
    ∧ (∀ f : Fin 225, f ≠ 2 → ((saving 4609 4).entry f).state ≠ .valid) ∧ ((saving 4609 4).entry 2).state = .writing
    ∧ (replacing.entry 7).state = .valid ∧ (replacing.entry 7).header = some { header9 with seq := 4 }
    ∧ (∀ g : Fin 225, g ≠ 7 → (replacing.entry g).state ≠ .valid)
    ∧ ((saving 4609 4).slot 1).state = .saving ∧ 1 ≤ (job 4608 4).progress ∧ (job 4608 4).progress ≤ 4608
    ∧ 1 ≤ (job 1 4).progress ∧ (saving 4609 4).arch.mount ≠ .mounting ∧ (saving 4609 4).port.suspended = none
    ∧ (saving 4609 4).port.queue.length ≤ 48 ∧ { job 5 4 with cancelled := true }.cancelled = true
    ∧ ((slotted 1 .damaged (saving 5 4)).slot 1).state = .damaged ∧ (saving 0 1).port.command.isSome = true := by
  unfold JobAt; decide +kernel
theorem test_commit : let t := after (exec (.pageProgramFinish .pass) replacing);
    (t.entry 2).state = .valid ∧ (t.slot 1).state = .saved ∧ (t.slot 1).link = some ⟨2, 9⟩ ∧ (t.entry 7).state = .stale
      ∧ (t.slot 9).state = .held ∧ t.port.queue = [.withdraw 7 false]
      ∧ t.links.panel.responses = [.event (.saveDone 6#8 1 3 0 2 9)] := by decide +kernel
theorem test_damaged_save_ends : let t := after (exec (.pageProgramFinish .pass) (slotted 1 .damaged (saving 5 4)));
    t.port.queue = [] ∧ (t.entry 2).state = .stale ∧ (t.slot 1).state = .damaged
      ∧ t.links.panel.responses = [.event (.saveFailed 6#8 1 3 0 .damaged)] := by decide +kernel
theorem test_damage_ends_paused_save :
    let s := { queued [.program pausedJob] (saving 5 4) with comp := showing.comp }
    let t := after (exec (.slotReadUncorrectable 1 .compositor) s);
    JobAt s.port [] (.program pausedJob) [] ∧ (s.slot 1).state = .saving ∧ (s.entry 2).state = .writing
      ∧ t.port.queue = [] ∧ (t.entry 2).state = .stale ∧ (t.slot 1).state = .damaged := by unfold JobAt; decide
theorem test_damage_leaves_running_save :
    let s := { saving 5 4 with comp := showing.comp }
    let t := after (exec (.slotReadUncorrectable 1 .compositor) s);
    t.port = s.port ∧ (after (exec (.pageProgramFinish .pass) t)).port.queue = [] := by decide +kernel
/-- The third expiry of a save retires its entry (R141). -/
theorem test_save_times_out : (let t := after (exec .commandDeadlineExpiry (saving 0 1));
    (t.entry 2).state = .stale ∧ (t.slot 1).state = .held ∧ t.port.queue = [])
    ∧ let t := after (exec .commandDeadlineExpiry (entered 2 { valid9 with state := .writing, failures := 2 } (saving 0 1)));
      (t.entry 2).state = .retired ∧ (t.entry 2).failures = 3 ∧ t.port.queue = [.retire 2 false] := by decide

theorem test_read_job_hypotheses : (recalling 4606).port.command = some ⟨.pageRead, some (291, 0), 1⟩
    ∧ JobAt (recalling 4606).port [] (.read (readJob 4606)) [] ∧ (readJob 4606).state = .running
    ∧ JobAt (queued [.program pausedJob, .read (readJob 0), .read waitingRead] (recalling 0)).port [.program pausedJob]
        (.read (readJob 0)) [.read waitingRead]
    ∧ (recalling 4606).port.suspended = none ∧ (recalling 4606).arch.mount ≠ .mounting ∧ (readJob 4606).progress + 1 < 4608
    ∧ halted (recalling 4606) = false ∧ halted (stopped (recalling 4606)) = true
    ∧ (readJob 4607).progress + 1 = 4608 ∧ ((recalling 4607).entry 2).state = .valid
    ∧ ((recalling 4607).entry 2).header = some header9 ∧ header9.seq = (readJob 4607).seq
    ∧ ((entered 2 { valid9 with state := .stale } (recalling 4607)).entry 2).state ≠ .valid := by unfold JobAt; decide

/-- A READ ends with a paused PROGRAM job, a QUEUED one, a WITHDRAW job and a READ in the queue. -/
def crowdedRead (suspended : Option (Fin 225 × Nat)) (q : List Job) : State :=
  let s := mounted (queued (.read (readJob 0) :: q) (recalling 0));
  { s with port := { s.port with suspended } }

/-- The order of R146: the oldest READ, a word, the paused PROGRAM job; while an erase is suspended a READ or a resume. -/
theorem test_decision_order :
    let next (u : Option (Fin 225 × Nat)) (q : List Job) : FlashPort :=
      (after (exec (.readJobPageRead .uncorrectable) (crowdedRead u q))).port
    let read : Job := .read waitingRead;
    (next none [.program pausedJob, .withdraw 9 false, read]).queue
        = [.program pausedJob, .withdraw 9 false, .read { waitingRead with state := .running }]
      ∧ (next none [.program pausedJob, .withdraw 9 false]).queue = [.program pausedJob, .withdraw 9 true]
      ∧ (next none [.program { queuedJob with slot := 7 }, .program pausedJob]).queue
        = [.program { queuedJob with slot := 7 }, .program { pausedJob with state := .running }]
      ∧ (next (some (8, 3)) [.withdraw 9 false]).command = some ⟨.resume, some (1163, 0), 1⟩
      ∧ (next (some (8, 3)) [.withdraw 9 false, read]).command = some ⟨.pageRead, some (1016, 0), 1⟩ := by decide +kernel

/-- The port works on a WITHDRAW or RETIRE job of extent 2. -/
def wording (j : Job) (kind : FlashKind) : State := port [j] ⟨kind, wordPlace j, 1⟩ (entered 2 { valid9 with state := .stale } boot)

theorem test_word_hypotheses : JobAt (wording (.withdraw 2 true) .pageRead).port [] (.withdraw 2 true) []
    ∧ JobAt (wording (.retire 2 true) .pageRead).port [] (.retire 2 true) []
    ∧ JobAt (queued [.program pausedJob, .withdraw 2 true, .read waitingRead] (wording (.withdraw 2 true) .pageRead)).port
        [.program pausedJob] (.withdraw 2 true) [.read waitingRead]
    ∧ (wording (.withdraw 2 true) .pageRead).port.command = some ⟨.pageRead, some (290, 2), 1⟩
    ∧ (wording (.withdraw 2 true) .pageProgram).port.command = some ⟨.pageProgram, some (145 * (2 : Fin 225).val, 2), 1⟩
    ∧ (wording (.retire 2 true) .pageProgram).port.command = some ⟨.pageProgram, some (145 * (2 : Fin 225).val, 3), 1⟩
    ∧ JobAt (wording (.retire 2 true) .pageProgram).port [] (.retire 2 true) []
    ∧ (wording (.withdraw 2 true) .pageRead).arch.mount ≠ .mounting
    ∧ (wording (.withdraw 2 true) .pageRead).port.queue.length ≤ 48
    ∧ pageBlank (wording (.withdraw 2 true) .pageRead).flash (145 * 2) 2 = true
    ∧ pageBlank (programPage 290 2 withdrawMarker []) (145 * 2) 2 = false
    ∧ halted (wording (.withdraw 2 true) .pageRead) = false
    ∧ halted (stopped (wording (.withdraw 2 true) .pageRead)) = true
    ∧ (wording (.withdraw 2 true) .pageProgram).port.suspended = none := by unfold JobAt; decide
/-- The third failure of an extent retires it (R141, R153). -/
theorem test_withdraw_times_out :
    let s := entered 2 { valid9 with state := .stale, failures := 2 } (wording (.withdraw 2 true) .pageProgram)
    let t := after (exec .commandDeadlineExpiry s);
    (t.entry 2).state = .retired ∧ (t.entry 2).failures = 3 ∧ t.port.queue = [.retire 2 false]
      ∧ t.port.command = some ⟨.reset, none, 5⟩ := by decide +kernel

theorem test_reclaim_hypotheses : (reclaiming 144 .blockErase).port.reclaim = some (2, 144)
    ∧ (reclaiming 0 .blockErase).port.reclaim = some (2, 0) ∧ (reclaiming 0 .blockErase).port.queue = []
    ∧ ((reclaiming 0 .blockErase).entry 2).state = .stale
    ∧ (reclaiming 0 .blockErase).port.command = some ⟨.blockErase, some (290, 0), 20⟩
    ∧ (reclaiming 144 .suspend).port.command = some ⟨.suspend, some (434, 0), 20⟩
    ∧ (reclaiming 144 .resume).port.command = some ⟨.resume, some (434, 0), 20⟩ := by decide

/-- A READ waits for the suspend of a reclaim erase, behind a QUEUED PROGRAM job. -/
def suspending : State := queued [.program queuedJob, .read waitingRead, .retire 9 false] (reclaiming 5 .suspend)

theorem test_suspended_read_hypotheses :
    suspending.port.queue = [.program queuedJob] ++ .read waitingRead :: [.retire 9 false] ∧ waitingRead.state = .queued
      ∧ MayStart (idle suspending) := by unfold MayStart; decide
theorem test_suspend_starts_read (r : SuspendResult) :
    let t := after (exec (.suspendFinish r) suspending);
    t.port.queue = [.program queuedJob, .read { waitingRead with state := .running }, .retire 9 false]
        ++ (if r = .finishedFail then [.retire 2 false] else [])
      ∧ t.port.command = some ⟨.pageRead, some (1016, 0), 1⟩
      ∧ t.port.suspended = (if r = .suspended then some (2, 5) else none) := by
  cases r <;> decide +kernel

/-- A READ job into slot 5 runs while the erase of extent 2 is suspended. -/
def readingSuspended : State :=
  let s := slotted 5 .filling (reclaiming 5 .suspend);
  { s with port := { s.port with
      queue := [.read { waitingRead with state := .running }]
      command := some ⟨.pageRead, some (1016, 0), 1⟩
      suspended := some (2, 5) } }

theorem test_deadline_hypotheses : (saving 5 4).port.command = some ⟨.pageProgram, some (290, 0), 2⟩
    ∧ (resetting boot).port.command = some ⟨.reset, none, 5⟩ ∧ (resetting boot).port.queue = []
    ∧ halted (stopped (resetting boot)) = true ∧ (resetting boot).arch.mount ≠ .mounting
    ∧ (mounting (resetting boot)).arch.mount = .mounting ∧ (scanning 3 [false]).arch.scan.again = false
    ∧ (scanning 3 [false]).port.suspended = none ∧ boot.port.command = none
    ∧ (saving 5 4).faults.policy.get FaultKind.flashTimeout.index = ⟨false, .error⟩ ∧ (saving 5 4).faults.error = none
    ∧ (reclaiming 5 .resume).port.reclaim = some (2, 5) ∧ ((reclaiming 5 .resume).entry 2).state = .stale
    ∧ (reclaiming 5 .resume).port.command = some ⟨.resume, some (295, 0), 20⟩
    ∧ (readingSuspended.port.command = some ⟨.pageRead, some (1016, 0), 1⟩ ∧ readingSuspended.port.suspended = some (2, 5)
      ∧ readingSuspended.port.reclaim = some (2, 5) ∧ (readingSuspended.entry 2).state = .stale
      ∧ readingSuspended.arch.mount ≠ .mounting
      ∧ (mounting readingSuspended).arch.mount = .mounting ∧ (mounting readingSuspended).arch.scan.again = false) := by
  decide
/-- A READ that expires while an erase is suspended ends, and the erase is abandoned with a failure of its extent (R152). -/
theorem test_erase_abandoned : let t := after (exec .commandDeadlineExpiry readingSuspended);
    t.port = { boot.port with command := some ⟨.reset, none, 5⟩, resetCause := some .expiry }
      ∧ (t.entry 2).state = .stale ∧ (t.entry 2).failures = 1 ∧ (t.entry 2).progress = 0
      ∧ (t.entry 7).failures = 1 ∧ (t.slot 5).state = .empty := by decide +kernel

/-- A flash reset in flight with a paused PROGRAM job of slot 1, which holds extent 2, and a READ job into slot 5. -/
def stranded : State :=
  let s := slotted 5 .filling (saving 5 4);
  { s with port := { s.port with queue := [.program pausedJob, .read waitingRead], command := some ⟨.reset, none, 5⟩ } }

theorem test_offline_hypotheses : stranded.port.command = some ⟨.reset, none, 5⟩ ∧ stranded.arch.mount ≠ .mounting := by decide
theorem test_held_is_writing (j : ProgramJob) (e : Fin 225) (seq : Nat) (h : Job.program j ∈ stranded.port.queue)
    (g : j.held = some (e, seq)) : (stranded.entry e).state = .writing := by
  have : j = pausedJob := by simpa [stranded] using h
  subst this
  have : e = 2 := by simpa [pausedJob, job] using congrArg (Option.map Prod.fst) g.symm
  subst this
  decide
/-- OFFLINE ends both jobs, then raises its fault (R155). -/
theorem test_offline_ends_jobs : let t := after (exec .flashResetExpiry stranded);
    t.port.queue = [] ∧ (t.entry 2).state = .stale ∧ (t.slot 1).state = .held ∧ (t.slot 5).state = .empty
      ∧ t.links.panel.responses = [.event (.saveFailed 6#8 1 3 0 .offline), .event (.recallFailed 6#8 5 7 .offline),
          .event (.fault .error .flashOffline .internal .none 0 .first)] := by decide +kernel

end Sys2Proof.Tests
end

section
/-!
SUPPORT. The taking of a command that its link can take, its answer, and which links an event leaves.
-/

namespace Sys2Proof.Machine.Presentation

variable {s u : State}

/-! ## Taking a command -/

theorem whenTaken_of_canTake {l : Link} (can : canTake s l = true) (t : State) : whenTaken l s t = t := if_pos can

theorem exec_of_take {c : Instr} {l : Link} {take : State → State} (can : canTake s l = true)
    (e : exec c s = .next (whenTaken l s (take s))) : exec c s = .next (take s) := by rw [e, whenTaken_of_canTake can]

/-- A command whose taking is a refusal is refused (R163). -/
theorem refusedWith_of_take {c : Instr} {l : Link} {tag code : Byte} {r : Result} {take : State → State}
    (can : canTake s l = true) (e : exec c s = .next (whenTaken l s (take s))) (h : take s = refuse l tag code r s) :
    RefusedWith r c l tag code s :=
  ⟨_, by rw [exec_of_take can e, h], refuse_answers ..⟩

/-! ## The links an event leaves -/

theorem postTo_links (e : Event) (l : Link) (s : State) :
    (postTo e l s).links = s.links.set l (eventPlaced e (s.links.get l)) := by rw [postTo_eq]; rfl

theorem postTo_links_congr (e : Event) (l : Link) (h : s.links = u.links) :
    (postTo e l s).links = (postTo e l u).links := by rw [postTo_links, postTo_links, h]

theorem postSubscribed_links_congr (e : Event) (l : Link) (h : s.links = u.links) :
    (postSubscribed e l s).links = (postSubscribed e l u).links := by
  unfold postSubscribed
  rw [h]
  split
  · exact postTo_links_congr e l h
  · exact h

theorem postIssued_links_congr (e : Event) (l : Link) (h : s.links = u.links) :
    (postIssued e l s).links = (postIssued e l u).links :=
  postSubscribed_links_congr e _ (postTo_links_congr e l h)

theorem postFor_links_congr (e : Event) (l : Option Link) (h : s.links = u.links) :
    (postFor e l s).links = (postFor e l u).links := by
  cases l with
  | none => exact postSubscribed_links_congr e _ (postSubscribed_links_congr e _ h)
  | some l => exact postIssued_links_congr e l h

/-- An event leaves the Compositor as it was. -/
@[simp] theorem postTo_comp (e : Event) (l : Link) (s : State) : (postTo e l s).comp = s.comp := by rw [postTo_eq]; rfl

/-! ## Operands of one byte -/

theorem byte_ne_of_one_lt {b : Byte} (h : 1 < b.toNat) : b ≠ 0#8 ∧ b ≠ 1#8 := by
  constructor <;> rintro rfl <;> simp at h

theorem readPane_of_byte {pane : Byte} {q : Pane} (h : (q = .zero ∧ pane = 0#8) ∨ (q = .one ∧ pane = 1#8)) :
    readPane pane = some q := by
  rcases h with ⟨rfl, rfl⟩ | ⟨rfl, rfl⟩ <;> rfl

theorem readPane_none {pane : Byte} (h : 1 < pane.toNat) : readPane pane = none := by
  simp [readPane, byte_ne_of_one_lt h]

theorem readLayout_none {v : Byte} (h : 1 < v.toNat) : readLayout v = none := by
  simp [readLayout, byte_ne_of_one_lt h]

theorem readRotation_of_byte {rotation : Byte} {r : Rotation}
    (h : (r = .deg0 ∧ rotation = 0#8) ∨ (r = .deg180 ∧ rotation = 1#8)) : readRotation rotation = some r := by
  rcases h with ⟨rfl, rfl⟩ | ⟨rfl, rfl⟩ <;> rfl

theorem readRotation_none {rotation : Byte} (h : 1 < rotation.toNat) : readRotation rotation = none := by
  simp [readRotation, byte_ne_of_one_lt h]

/-- The pane sources of R58 as STAGE_PANE reads them (R63). -/
theorem readSource_of_bytes {kind number : Byte} {source : PaneSource}
    (h : (source = .live ∧ kind = 0#8) ∨ (source = .freeze ∧ kind = 1#8) ∨ (source = .blank ∧ kind = 3#8)
      ∨ (∃ n : Fin 24, n ≠ 0 ∧ source = .slot n ∧ kind = 2#8 ∧ number.toNat = n)) :
    readSource kind number = some source := by
  obtain ⟨rfl, rfl⟩ | ⟨rfl, rfl⟩ | ⟨rfl, rfl⟩ | ⟨n, hn, rfl, rfl, e⟩ := h
  · rfl
  · rfl
  · rfl
  · have low : number.toNat < 24 := e ▸ n.isLt
    have nonzero : number ≠ 0#8 := by
      rintro rfl
      exact hn (Fin.ext e.symm)
    have same : (⟨number.toNat, low⟩ : Fin 24) = n := Fin.ext e
    simp [readSource, low, nonzero, same]

/-- An unknown source kind, and a SLOT number that is no lesson slot (R63). -/
theorem readSource_none {kind number : Byte}
    (h : 3 < kind.toNat ∨ (kind = 2#8 ∧ (number = 0#8 ∨ 23 < number.toNat))) : readSource kind number = none := by
  obtain high | ⟨rfl, rfl | high⟩ := h
  · have ne (k : Byte) (hk : k.toNat ≤ 3) : kind ≠ k := by rintro rfl; omega
    simp [readSource, ne 0#8, ne 1#8, ne 2#8, ne 3#8]
  · rfl
  · have : ¬ number.toNat < 24 := by omega
    simp [readSource, this]

end Sys2Proof.Machine.Presentation
end

section
/-!
SUPPORT. The staged sets (R62 to R65): what STAGE_LAYOUT, STAGE_PANE, DISCARD_STAGE and APPLY do when they are taken.
-/

namespace Sys2Proof.Machine.Presentation

variable {s : State} {l : Link} {tag : Byte}

/-- A command that answers and leaves `g` as its link's staged set, every other part of the Compositor standing (R62). -/
def Stages (c : Instr) (l : Link) (tag code : Byte) (r : Result) (bytes : List Byte) (g : Option StagedSet) (s : State) :
    Prop :=
  ∃ t, exec c s = .next t ∧ Answers l tag code r bytes s t ∧ OnlyChanges [.comp, .links] s t
    ∧ t.comp = { s.comp with staged := s.comp.staged.set l g }

theorem stages_of_take {c : Instr} {code : Byte} {r : Result} {bytes : List Byte} {g : Option StagedSet}
    {take : State → State} (can : canTake s l = true) (e : exec c s = .next (whenTaken l s (take s)))
    (h : take s = respond l tag code r bytes (s.setStaged l g)) : Stages c l tag code r bytes g s :=
  ⟨respond l tag code r bytes (s.setStaged l g), by rw [exec_of_take can e, h], rfl,
    (changes_setStaged (by simp) l g).trans (changes_respond (by simp) _ _ _ _ _), rfl⟩

/-! ## STAGE_LAYOUT and DISCARD_STAGE (R62, R64) -/

theorem stageLayout_stages (can : canTake s l = true) {v : Byte} {layout : Layout} (h : readLayout v = some layout) :
    Stages (.stageLayout l tag [v]) l tag 0x40#8 .ok []
      (some { stagedOrOpened l s with layout := layout, layoutMark := true }) s :=
  stages_of_take (take := takeStageLayout l tag [v]) can rfl (by simp only [takeStageLayout, h])

theorem stageLayout_refused (can : canTake s l = true) {v : Byte} (h : 1 < v.toNat) :
    RefusedWith .badArgument (.stageLayout l tag [v]) l tag 0x40#8 s :=
  refusedWith_of_take (take := takeStageLayout l tag [v]) can rfl (by simp only [takeStageLayout, readLayout_none h])

theorem discardStage_stages (can : canTake s l = true) (payload : List Byte) :
    Stages (.discardStage l tag payload) l tag 0x42#8 .ok [] none s :=
  stages_of_take (take := takeDiscardStage l tag payload) can rfl rfl

/-! ## The fields a STAGE_PANE names (R63) -/

theorem readPaneFields_source (kind number : Byte) :
    readPaneFields 1#8 [kind, number] = ⟨some (kind, number), none, none, none, none, true⟩ := rfl

theorem readPaneFields_view (z0 z1 x0 x1 y0 y1 rotation : Byte) :
    readPaneFields 0x1E#8 [z0, z1, x0, x1, y0, y1, rotation]
      = ⟨none, some (read2 z0 z1), some (read2 x0 x1), some (read2 y0 y1), some rotation, true⟩ := rfl

theorem readPaneFields_zoom (z0 z1 : Byte) :
    readPaneFields 0x02#8 [z0, z1] = ⟨none, some (read2 z0 z1), none, none, none, true⟩ := rfl

theorem readPaneFields_rotation (rotation : Byte) :
    readPaneFields 0x10#8 [rotation] = ⟨none, none, none, none, some rotation, true⟩ := rfl

/-! ## STAGE_PANE (R63) -/

section
variable {pane presence : Byte} {values : List Byte} {q : Pane} {f : PaneFields}

/-- Fields whose source and rotation are values of R63 and that fill the payload are staged. -/
theorem takeStagePane_staged {source : Option PaneSource} {rotation : Option Rotation} (hq : readPane pane = some q)
    (hf : readPaneFields presence values = f) (fits : f.fits = true)
    (hs : f.source.bind (fun p => readSource p.1 p.2) = source) (known : f.source.isSome = source.isSome)
    (hr : f.rotation.bind readRotation = rotation) (turned : f.rotation.isSome = rotation.isSome) :
    takeStagePane l tag (pane :: presence :: values) s = stagePane l tag q source f rotation s := by
  have someNone {α : Type} (o : Option α) : ¬ (o.isSome = true ∧ o = none) := by
    rintro ⟨h, rfl⟩
    cases h
  simp [takeStagePane, hq, hf, hs, hr, fits, known, turned, someNone]

theorem takeStagePane_bad_source (hq : readPane pane = some q) (hf : readPaneFields presence values = f)
    (named : f.source.isSome = true) (hs : f.source.bind (fun p => readSource p.1 p.2) = none) :
    takeStagePane l tag (pane :: presence :: values) s = refuse l tag 0x41#8 .badArgument s := by
  simp [takeStagePane, hq, hf, named, hs]

theorem takeStagePane_bad_rotation (hq : readPane pane = some q) (hf : readPaneFields presence values = f)
    (unnamed : f.source = none) (named : f.rotation.isSome = true) (hr : f.rotation.bind readRotation = none) :
    takeStagePane l tag (pane :: presence :: values) s = refuse l tag 0x41#8 .badArgument s := by
  simp [takeStagePane, hq, hf, unnamed, named, hr]

end

/-- A source alone is written with its mark; the response holds the staged view as it stands. -/
theorem stagePane_source (q : Pane) (source : PaneSource) {f : PaneFields} (h : f.namesView = false) :
    stagePane l tag q (some source) f none s
      = respond l tag 0x41#8 .ok (source.bytes ++ ((stagedOrOpened l s).views.get q).bytes)
          (s.setStaged l (some { stagedOrOpened l s with
            sources := (stagedOrOpened l s).sources.set q source
            sourceMarks := (stagedOrOpened l s).sourceMarks.set q true })) := by
  simp [stagePane, h]

/-- The staged set with a pane's view written and marked. -/
def withStagedView (q : Pane) (v : View) (g : StagedSet) : StagedSet :=
  { g with views := g.views.set q v, viewMarks := g.viewMarks.set q true }

/-- View fields are written over the staged view and clamped; CLAMPED says that the clamps changed something. -/
theorem stagePane_view (q : Pane) (rotation : Option Rotation) {f : PaneFields} {wanted : View} (h : f.namesView = true)
    (w : f.written rotation ((stagedOrOpened l s).views.get q) = wanted) :
    stagePane l tag q none f rotation s
      = respond l tag 0x41#8 (if clampWhole wanted = wanted then .ok else .clamped)
          (((stagedOrOpened l s).sources.get q).bytes ++ (clampWhole wanted).bytes)
          (s.setStaged l (some (withStagedView q (clampWhole wanted) (stagedOrOpened l s)))) := by
  simp [stagePane, withStagedView, h, w, ite_not]

section
variable {pane : Byte} {q : Pane}

theorem stagePane_stages_source (can : canTake s l = true) (hq : readPane pane = some q) {kind number : Byte}
    {source : PaneSource} (hs : readSource kind number = some source) :
    Stages (.stagePane l tag [pane, 1#8, kind, number]) l tag 0x41#8 .ok
      (source.bytes ++ ((stagedOrOpened l s).views.get q).bytes)
      (some { stagedOrOpened l s with
        sources := (stagedOrOpened l s).sources.set q source
        sourceMarks := (stagedOrOpened l s).sourceMarks.set q true }) s := by
  refine stages_of_take (take := takeStagePane l tag _) can rfl ?_
  rw [takeStagePane_staged (rotation := none) hq (readPaneFields_source ..) rfl hs rfl rfl rfl]
  exact stagePane_source q source rfl

theorem stagePane_stages_view (can : canTake s l = true) (hq : readPane pane = some q) {presence : Byte}
    {values : List Byte} {f : PaneFields} {rotation : Option Rotation} {wanted : View}
    (hf : readPaneFields presence values = f) (fits : f.fits = true) (unnamed : f.source = none)
    (hr : f.rotation.bind readRotation = rotation) (turned : f.rotation.isSome = rotation.isSome)
    (named : f.namesView = true) (w : f.written rotation ((stagedOrOpened l s).views.get q) = wanted) :
    Stages (.stagePane l tag (pane :: presence :: values)) l tag 0x41#8
      (if clampWhole wanted = wanted then .ok else .clamped)
      (((stagedOrOpened l s).sources.get q).bytes ++ (clampWhole wanted).bytes)
      (some (withStagedView q (clampWhole wanted) (stagedOrOpened l s))) s := by
  refine stages_of_take (take := takeStagePane l tag _) can rfl ?_
  rw [takeStagePane_staged (source := none) hq hf fits (by rw [unnamed]; rfl) (by rw [unnamed]; rfl) hr turned]
  exact stagePane_view q rotation named w

end

/-! ## APPLY (R65) -/

/-- The open staged set becomes the pending apply and closes. -/
def pendingAfterApply (l : Link) (tag : Byte) (g : StagedSet) (s : State) : State :=
  s.withComp { s.comp with staged := s.comp.staged.set l none, pendingApply := some ⟨l, tag, g⟩ }

theorem takeApply_first {payload : List Byte} {g : StagedSet} (h : s.comp.staged.get l = some g)
    (first : s.comp.pendingApply = none) :
    takeApply l tag payload s = respond l tag 0x43#8 .accepted [] (pendingAfterApply l tag g s) := by
  simp only [takeApply, h, first]; rfl

theorem takeApply_replacing {payload : List Byte} {g : StagedSet} {old : PendingApply}
    (h : s.comp.staged.get l = some g) (replaced : s.comp.pendingApply = some old) :
    takeApply l tag payload s
      = postTo (.superseded old.tag l) old.link (respond l tag 0x43#8 .accepted [] (pendingAfterApply l tag g s)) := by
  simp only [takeApply, h, replaced]; rfl

theorem changes_applied (g : StagedSet) :
    OnlyChanges [.comp, .links] s (respond l tag 0x43#8 .accepted [] (pendingAfterApply l tag g s)) :=
  (changes_withComp (by simp) _).trans (changes_respond (by simp) _ _ _ _ _)

end Sys2Proof.Machine.Presentation
end

section
namespace Sys2Proof.Machine.Presentation

/-- Settles O41: each command is taken by its equation above, at the presence sets the statement names. -/
theorem stagedSetsAreWrittenAndApplied : Obligations.StagedSetsAreWrittenAndApplied := by
  unfold Obligations.StagedSetsAreWrittenAndApplied
  refine ⟨fun l tag s can => ⟨?single, ?split, ?badLayout, ?discard, ?panes, ?badPane⟩,
    fun l tag payload s can => ⟨?opened, ?closed⟩⟩
  case single => exact stageLayout_stages can rfl
  case split => exact stageLayout_stages can rfl
  case badLayout => exact fun v h => stageLayout_refused can h
  case discard => exact discardStage_stages can
  case panes =>
    intro pane q hpane
    have hq := readPane_of_byte hpane
    refine ⟨?source, ?view, ?badRotation, ?badSource⟩
    case source => exact fun _ _ _ known => stagePane_stages_source can hq (readSource_of_bytes known)
    case view =>
      intro z0 z1 x0 x1 y0 y1 rotation r turned
      have hr := readRotation_of_byte turned
      exact ⟨stagePane_stages_view can hq (readPaneFields_view ..) rfl rfl hr rfl rfl rfl,
        stagePane_stages_view can hq (rotation := none) (readPaneFields_zoom ..) rfl rfl rfl rfl rfl rfl⟩
    case badRotation =>
      exact fun rotation h => refusedWith_of_take (take := takeStagePane l tag _) can rfl
        (takeStagePane_bad_rotation hq (readPaneFields_rotation ..) rfl rfl (readRotation_none h))
    case badSource =>
      exact fun kind number h => refusedWith_of_take (take := takeStagePane l tag _) can rfl
        (takeStagePane_bad_source hq (readPaneFields_source ..) rfl (readSource_none h))
  case badPane =>
    intro pane presence values h
    exact refusedWith_of_take (take := takeStagePane l tag _) can rfl (by simp only [takeStagePane, readPane_none h])
  case opened =>
    intro g hg
    refine ⟨_, exec_of_take (take := takeApply l tag payload) can rfl, ?_⟩
    cases hp : s.comp.pendingApply with
    | none =>
      rw [takeApply_first hg hp]
      exact ⟨rfl, fun _ => rfl, fun _ h => (nomatch h), changes_applied g⟩
    | some old =>
      rw [takeApply_replacing hg hp]
      refine ⟨postTo_comp .., fun h => (nomatch h), fun _ h => ?_, (changes_applied g).trans (changes_postTo (by simp) _ _)⟩
      cases h
      exact postTo_links_congr _ _ rfl
  case closed =>
    exact fun h => refusedWith_of_take (take := takeApply l tag payload) can rfl (by simp only [takeApply, h])

end Sys2Proof.Machine.Presentation
end

section
/-!
SUPPORT. The Page Mover's queue (R98 to R100) at its two ends: a request that is accepted or declined, and the start of the
head request.
-/

namespace Sys2Proof.Machine.Presentation

variable {s t : State}

/-! ## Starting the head request (R100) -/

theorem startCopy_mover (s : State) :
    (startCopy s).mover
      = ⟨s.mover.queue, s.mover.running || (decide (s.mover.queue ≠ []) && !halted s)⟩ := by
  unfold startCopy
  rcases e : s.mover with ⟨queue, running⟩
  cases running with
  | true => simp [e]
  | false => cases queue <;> cases halted s <;> simp [e]

/-- Starting a copy leaves every piece but the Page Mover. -/
theorem startCopy_same {p : Piece} (h : p ≠ .mover) (s : State) : p.same s (startCopy s) :=
  changes_startCopy (ps := [.mover]) (by simp) p (by simpa using h)

@[simp] theorem startCopy_store (s : State) : (startCopy s).store = s.store := startCopy_same (p := .store) (by simp) s
@[simp] theorem startCopy_ring (s : State) : (startCopy s).ring = s.ring := startCopy_same (p := .ring) (by simp) s
@[simp] theorem startCopy_comp (s : State) : (startCopy s).comp = s.comp := startCopy_same (p := .comp) (by simp) s
@[simp] theorem startCopy_links (s : State) : (startCopy s).links = s.links := startCopy_same (p := .links) (by simp) s
@[simp] theorem startCopy_faults (s : State) : (startCopy s).faults = s.faults := startCopy_same (p := .faults) (by simp) s

@[simp] theorem startCopy_slot (s : State) (n : Fin 24) : (startCopy s).slot n = s.slot n :=
  congrArg (·.slots.get n) (startCopy_store s)

theorem halted_congr (h : t.faults = s.faults) : halted t = halted s := by unfold halted; rw [h]

/-! ## The granted buffer and the queued request (R14, R99) -/

theorem mem_moverRingPins {m : Mover} {c : Fin 4} : c ∈ moverRingPins m ↔ ∃ r ∈ m.queue, r.source = .ring c := by
  simp only [moverRingPins, List.mem_filterMap]
  refine exists_congr fun r => and_congr_right fun _ => ?_
  cases r.source <;> simp

/-- The newest complete buffer is granted exactly when no other buffer holds a Page Mover pin (R14). -/
theorem ringGrant_eq_some_iff {r : Ring} {pins : List (Fin 4)} {b : Fin 4} :
    ringGrant r pins = some b ↔ r.order.getLast? = some b ∧ ∀ c ∈ pins, c = b := by
  unfold ringGrant newest
  cases r.order.getLast? with
  | none => simp
  | some n =>
    by_cases h : ∀ c ∈ pins, c = n
    · simp only [List.all_eq_true, decide_eq_true_eq, if_pos h, Option.some.injEq]
      exact ⟨fun e => ⟨e, e ▸ h⟩, fun e => e.1⟩
    · simp only [List.all_eq_true, decide_eq_true_eq, if_neg h, Option.some.injEq]
      exact ⟨fun e => (nomatch e), fun ⟨e, k⟩ => absurd (e ▸ k) h⟩

/-- A copy from the ring is queued with its source pinned when it has a place and a buffer is granted (R99). -/
theorem queueCopy_ring {kind : CopyKind} {target : Fin 24} {cause : CopyCause} {b : Fin 4}
    (place : s.mover.queue.length < 4) (grant : ringGrant s.ring (moverRingPins s.mover) = some b) :
    queueCopy kind true target cause s
      = some (.ring b, enqueueCopy ⟨kind, .ring b, target, cause⟩ (s.withRing (ringPin b s.ring))) := by
  have : ¬ moverPlaces ≤ s.mover.queue.length := Nat.not_le.2 place
  simp [queueCopy, this, grant]

/-- It is declined when the queue is full or no buffer is granted (R99). -/
theorem queueCopy_ring_declined {kind : CopyKind} {target : Fin 24} {cause : CopyCause}
    (h : 4 ≤ s.mover.queue.length ∨ ringGrant s.ring (moverRingPins s.mover) = none) :
    queueCopy kind true target cause s = none := by
  unfold queueCopy
  split
  · rfl
  · next place => simp [h.resolve_left place]

end Sys2Proof.Machine.Presentation
end

section
/-!
SUPPORT. FREEZE and UNFREEZE (R68, R70): what each does to the records when it is taken.
-/

namespace Sys2Proof.Machine.Presentation

variable {s : State} {l : Link} {tag pane : Byte} {q : Pane} {b : Fin 4}

theorem perPane_set_get_self {α : Type} {p : PerPane α} {v : α} (h : p.get q = v) : p.set q v = p := by
  subst h
  cases q <;> rfl

theorem fillSlot_slot (n m : Fin 24) (i : SlotInfo) (s : State) :
    (fillSlot n i s).slot m = if m = n then
        { s.slot n with state := .filling, info := some i, link := none, pins := (s.slot n).pins + 1 }
      else s.slot m := setSlot_slot ..

/-- The state with the freeze copy from buffer `b` queued, slot 0 FILLING, and the command answered (R68, R104). -/
def freezeQueued (l : Link) (tag : Byte) (q : Pane) (b : Fin 4) (s : State) : State :=
  enqueueCopy ⟨.freeze, .ring b, 0, .command l tag⟩ (s.withRing (ringPin b s.ring))
    |> fillSlot 0 (freezeInfo b q s) |> respond l tag 0x44#8 .accepted []

theorem freezeQueued_slot (l tag q b) (s : State) (n : Fin 24) :
    (freezeQueued l tag q b s).slot n = if n = 0 then
        { s.slot 0 with state := .filling, info := some (freezeInfo b q s), link := none, pins := (s.slot 0).pins + 1 }
      else s.slot n := fillSlot_slot ..

theorem changes_freezeQueued (l tag q b) (s : State) :
    OnlyChanges [.store, .mover, .ring, .links] s (freezeQueued l tag q b s) :=
  ((changes_withRing (by simp) _).trans (changes_enqueueCopy (by simp) _)).trans
    ((changes_fillSlot (by simp) _ _).trans (changes_respond (by simp) _ _ _ _ _))

/-- An accepted FREEZE makes the pane's record COPYING, clears its unfreeze mark and starts the copy; only the issuer of a
READY record is told, with a free frame number (R68, R100). -/
theorem takeFreeze_accepted (hq : readPane pane = some q) (running : halted s = false) (free : (s.slot 0).pins = 0)
    (place : s.mover.queue.length < 4) (grant : ringGrant s.ring (moverRingPins s.mover) = some b) :
    ∃ v, takeFreeze l tag [pane] s = startCopy v
      ∧ OnlyChanges [.comp, .links, .freeCount] (freezeQueued l tag q b s) v
      ∧ v.comp = { s.comp with
          freeze := s.comp.freeze.set q (.copying l tag), unfreeze := s.comp.unfreeze.set q none }
      ∧ ((∀ m g, s.comp.freeze.get q ≠ .ready m g) → v.links = (freezeQueued l tag q b s).links) := by
  have accepted : takeFreeze l tag [pane] s = acceptFreeze l tag q b s
      (enqueueCopy ⟨.freeze, .ring b, 0, .command l tag⟩ (s.withRing (ringPin b s.ring))) := by
    simp [takeFreeze, hq, running, free, queueCopy_ring place grant]
  have marked (w : State) : OnlyChanges [.comp, .links, .freeCount] w
      ((w.setFreeze q (.copying l tag)).setUnfreeze q none) :=
    (changes_setFreeze (by simp) _ _).trans (changes_setUnfreeze (by simp) _ _)
  rw [accepted]
  cases record : s.comp.freeze.get q with
  | none => exact ⟨_, by simp only [acceptFreeze, record]; rfl, marked _, rfl, fun _ => rfl⟩
  | copying m g => exact ⟨_, by simp only [acceptFreeze, record]; rfl, marked _, rfl, fun _ => rfl⟩
  | ready m g =>
    refine ⟨_, by simp only [acceptFreeze, record]; rfl,
      (changes_postWithdrawn (by simp) (by simp) q m g).trans (marked _), ?_, fun h => absurd rfl (h m g)⟩
    simp only [State.setUnfreeze, State.setFreeze, postWithdrawn, withComp_comp, postTo_comp, draw_comp]
    rfl

theorem takeFreeze_halted (hq : readPane pane = some q) (h : halted s = true) :
    takeFreeze l tag [pane] s = refuse l tag 0x44#8 .halted s := by simp [takeFreeze, hq, h]

theorem takeFreeze_slotInUse (hq : readPane pane = some q) (running : halted s = false) (h : 0 < (s.slot 0).pins) :
    takeFreeze l tag [pane] s = refuse l tag 0x44#8 .slotInUse s := by simp [takeFreeze, hq, running, h]

theorem takeFreeze_moverBusy (hq : readPane pane = some q) (running : halted s = false) (free : (s.slot 0).pins = 0)
    (h : 4 ≤ s.mover.queue.length ∨ ringGrant s.ring (moverRingPins s.mover) = none) :
    takeFreeze l tag [pane] s = refuse l tag 0x44#8 .moverBusy s := by
  simp [takeFreeze, hq, running, free, queueCopy_ring_declined h]

/-- An UNFREEZE removes the pane's record and sets its mark; the issuer of a record is told, with a free frame number
(R70). -/
theorem takeUnfreeze_spec (hq : readPane pane = some q) :
    OnlyChanges [.comp, .links, .freeCount] s (takeUnfreeze l tag [pane] s)
      ∧ (takeUnfreeze l tag [pane] s).comp = { s.comp with
          unfreeze := s.comp.unfreeze.set q (some l), freeze := s.comp.freeze.set q .none }
      ∧ (s.comp.freeze.get q = .none → Answers l tag 0x45#8 .ok [] s (takeUnfreeze l tag [pane] s)
          ∧ (takeUnfreeze l tag [pane] s).freeCount = s.freeCount) := by
  have answered := changes_respond (s := s) (ps := [.comp, .links, .freeCount]) (by simp) l tag 0x45#8 .ok []
  have withdrawn (m : Link) (g : Byte) (u : State) : OnlyChanges [.comp, .links, .freeCount] u
        (((postWithdrawn q m g u).setFreeze q .none).setUnfreeze q (some l))
      ∧ (((postWithdrawn q m g u).setFreeze q .none).setUnfreeze q (some l)).comp = { u.comp with
          unfreeze := u.comp.unfreeze.set q (some l), freeze := u.comp.freeze.set q .none } :=
    ⟨((changes_postWithdrawn (by simp) (by simp) q m g).trans (changes_setFreeze (by simp) _ _)).trans
        (changes_setUnfreeze (by simp) _ _),
      by simp [State.setUnfreeze, State.setFreeze, postWithdrawn]⟩
  cases record : s.comp.freeze.get q with
  | none =>
    have taken : takeUnfreeze l tag [pane] s = (respond l tag 0x45#8 .ok [] s).setUnfreeze q (some l) := by
      simp only [takeUnfreeze, hq, record]
    rw [taken]
    refine ⟨answered.trans (changes_setUnfreeze (by simp) _ _), ?_, fun _ => ⟨rfl, rfl⟩⟩
    have unchanged : s.comp.freeze.set q .none = s.comp.freeze := perPane_set_get_self record
    rw [unchanged]
    rfl
  | copying m g | ready m g =>
    simp only [takeUnfreeze, hq, record]
    exact ⟨answered.trans (withdrawn m g _).1, (withdrawn m g _).2, fun h => nomatch h⟩

end Sys2Proof.Machine.Presentation
end
section
namespace Sys2Proof.Machine.Presentation

/-- Settles O42: an accepted FREEZE queues its copy and sets its record, and the FROZEN event it may post to the issuer of an
earlier record changes the links and a free value only. -/
theorem freezeQueuesACopy : Obligations.FreezeQueuesACopy := by
  unfold Obligations.FreezeQueuesACopy
  intro l tag s pane q can hpane
  have hq := readPane_of_byte hpane
  refine ⟨?accepted, ?halted, ?inUse, ?busy, ?unfreeze, ?badPane⟩
  case accepted =>
    intro b running free place newest others
    have grant : ringGrant s.ring (moverRingPins s.mover) = some b := ringGrant_eq_some_iff.2
      ⟨newest, fun c hc => by
        obtain ⟨r, hr, e⟩ := mem_moverRingPins.1 hc
        exact others r hr c e⟩
    obtain ⟨v, taken, frame, comp, quiet⟩ := takeFreeze_accepted (l := l) (tag := tag) hq running free place grant
    have slot (n : Fin 24) : v.slot n = (freezeQueued l tag q b s).slot n :=
      congrArg (·.slots.get n) (frame .store (by simp))
    have mover : v.mover = ⟨s.mover.queue ++ [⟨.freeze, .ring b, 0, .command l tag⟩], s.mover.running⟩ :=
      frame .mover (by simp)
    have faults : v.faults = s.faults := frame .faults (by simp)
    refine ⟨startCopy v, (exec_of_take (take := takeFreeze l tag _) can rfl).trans (congrArg _ taken),
      ?slot0, ?mover, ?ring, ?comp, ?answer, ?slots, ?frame⟩
    case slot0 =>
      rw [startCopy_slot, slot, freezeQueued_slot, if_pos rfl, free]
      rfl
    case mover =>
      rw [startCopy_mover, halted_congr faults, running, mover]
      simp
    case ring => exact (startCopy_ring v).trans (frame .ring (by simp))
    case comp => exact (startCopy_comp v).trans comp
    case answer => exact fun h => (startCopy_links v).trans (quiet h)
    case slots =>
      intro n hn
      rw [startCopy_slot, slot, freezeQueued_slot, if_neg hn]
    case frame =>
      exact ((changes_freezeQueued l tag q b s).mono (by simp)).trans
        ((frame.mono (by simp)).trans (changes_startCopy (by simp)))
  case halted =>
    exact fun h => refusedWith_of_take (take := takeFreeze l tag _) can rfl (takeFreeze_halted hq h)
  case inUse =>
    exact fun running h => refusedWith_of_take (take := takeFreeze l tag _) can rfl (takeFreeze_slotInUse hq running h)
  case busy =>
    intro running free h
    refine refusedWith_of_take (take := takeFreeze l tag _) can rfl (takeFreeze_moverBusy hq running free ?_)
    refine h.imp_right fun h => Option.eq_none_iff_forall_ne_some.2 fun b grant => ?_
    obtain ⟨newest, others⟩ := ringGrant_eq_some_iff.1 grant
    obtain empty | ⟨r, hr, c, source, older⟩ := h
    · simp [empty] at newest
    · exact older (others c (mem_moverRingPins.2 ⟨r, hr, source⟩) ▸ newest)
  case unfreeze =>
    obtain ⟨frame, comp, quiet⟩ := takeUnfreeze_spec (s := s) (l := l) (tag := tag) hq
    exact ⟨_, exec_of_take (take := takeUnfreeze l tag _) can rfl, comp, quiet, frame⟩
  case badPane =>
    exact fun other h =>
      ⟨refusedWith_of_take (take := takeFreeze l tag _) can rfl (by simp only [takeFreeze, readPane_none h]),
        refusedWith_of_take (take := takeUnfreeze l tag _) can rfl (by simp only [takeUnfreeze, readPane_none h])⟩

end Sys2Proof.Machine.Presentation
end

section
/-!
SUPPORT. The end of a copy (R100, R101): what stands once the head request has left the queue, the fault of a failed copy,
and what each kind of request makes of its issuers and of the freeze records.
-/

namespace Sys2Proof.Machine.Presentation

variable {ps : List Piece} {s t u : State}

theorem table_set_set {α : Type} {n : Nat} (t : Table α n) (i : Fin n) (v w : α) : (t.set i v).set i w = t.set i w := by
  simp [Table.set]

theorem setSlot_self (s : State) (n : Fin 24) : s.setSlot n (s.slot n) = s :=
  congrArg (fun slots => s.withStore { s.store with slots }) (Table.set_get_self _ n _ rfl)

/-! ## Faults raised in two states that agree on what a record holds (R174, R175) -/

theorem postSteered_links_congr (e : Event) (v : Steering) (h : t.links = s.links) :
    (postSteered e v t).links = (postSteered e v s).links := by
  unfold postSteered
  have first : (if v.names .panel then postTo e .panel t else t).links
      = (if v.names .panel then postTo e .panel s else s).links := by
    split
    · exact postTo_links_congr e _ h
    · exact h
  dsimp only
  split
  · exact postTo_links_congr e _ first
  · exact first

/-- Two states that give a fault the same record, the same policy and the same links to tell. -/
structure RaisesAlike (s t : State) : Prop where
  faults : t.faults = s.faults
  links : t.links = s.links
  frame : t.comp.frameCounter = s.comp.frameCounter
  clock : t.store.clock = s.store.clock

theorem RaisesAlike.record (h : RaisesAlike s t) (kind origin detail log) :
    faultRecord kind origin detail log t = faultRecord kind origin detail log s := by
  simp only [faultRecord, h.frame, h.clock]

theorem RaisesAlike.postFault_links (h : RaisesAlike s t) (f : Faults) (cls kind origin detail marker) :
    (postFault cls kind origin detail marker (t.withFaults f)).links
      = (postFault cls kind origin detail marker (s.withFaults f)).links := by
  unfold postFault
  simp only [withFaults_comp, withFaults_faults, h.frame]
  exact postSteered_links_congr _ _ h.links

theorem RaisesAlike.raise_faults_eq (h : RaisesAlike s t) (kind origin detail log) :
    (raise kind origin detail log t).faults = (raise kind origin detail log s).faults := by
  rw [raise_faults, raise_faults]
  simp only [faultsRaised, h.faults, h.record]

theorem RaisesAlike.raise_links_eq (h : RaisesAlike s t) (kind origin detail log) :
    (raise kind origin detail log t).links = (raise kind origin detail log s).links := by
  have told := h.postFault_links
  unfold raise
  simp only [h.faults, h.record]
  rcases s.faults.policy.get kind.index with ⟨masked, severity⟩
  cases masked with
  | true => exact h.links
  | false =>
    cases severity with
    | notice =>
      dsimp only
      cases s.faults.notices.get kind.index with
      | true => exact h.links
      | false => exact told _ _ _ _ _ _
    | error =>
      dsimp only
      cases s.faults.error.isNone with
      | true => exact told _ _ _ _ _ _
      | false =>
        cases s.faults.errorNext with
        | true => exact h.links
        | false => exact told _ _ _ _ _ _
    | fatal =>
      dsimp only
      cases s.faults.fatal.isNone with
      | true => exact told _ _ _ _ _ _
      | false =>
        cases s.faults.fatalNext with
        | true => exact h.links
        | false => exact told _ _ _ _ _ _

theorem RaisesAlike.setSlot (h : RaisesAlike s t) (n : Fin 24) (v : Slot) : RaisesAlike s (t.setSlot n v) :=
  ⟨h.faults, h.links, h.frame, h.clock⟩

/-! ## Damage of a slot (R107) -/

theorem raiseInternal_slot (kind detail) (s : State) (n : Fin 24) : (raiseInternal kind detail s).slot n = s.slot n :=
  congrArg (·.slots.get n)
    (changes_raiseInternal (ps := [.links, .faults]) (by simp) (by simp) kind detail .store (by simp))

/-- A HELD slot becomes DAMAGED without a link, and the fault names it (R94, R107). -/
theorem damageSlot_held (h : RaisesAlike s t) {n : Fin 24} (held : (t.slot n).state = .held) :
    (damageSlot n t).slot n = { t.slot n with state := .damaged, link := none }
      ∧ (damageSlot n t).faults = (raiseInternal .dramUncorrectable (.slot n) s).faults
      ∧ (damageSlot n t).links = (raiseInternal .dramUncorrectable (.slot n) s).links := by
  have damage : damageSlot n t = raiseInternal .dramUncorrectable (.slot n)
      (t.setSlot n { t.slot n with state := .damaged, link := none }) := by simp only [damageSlot, held]
  have alike := h.setSlot n { t.slot n with state := .damaged, link := none }
  rw [damage]
  refine ⟨?_, alike.raise_faults_eq .., alike.raise_links_eq ..⟩
  exact (raiseInternal_slot ..).trans ((setSlot_slot ..).trans (if_pos rfl))

theorem damageSlot_damaged {n : Fin 24} (h : (s.slot n).state = .damaged) : damageSlot n s = s := by
  simp only [damageSlot, h]

/-- Whatever its state, a damaged slot is replaced, and the fault changes links and fault records only. -/
theorem damageSlot_replaces (n : Fin 24) (s : State) :
    ∃ v, OnlyChanges [.links, .faults] (s.setSlot n v) (damageSlot n s) := by
  have stands : OnlyChanges [.links, .faults] (s.setSlot n (s.slot n)) s := by rw [setSlot_self]; exact .refl _ s
  have raised (v : Slot) : OnlyChanges [.links, .faults] (s.setSlot n v)
      (raiseInternal .dramUncorrectable (.slot n) (s.setSlot n v)) := changes_raiseInternal (by simp) (by simp) _ _
  unfold damageSlot
  dsimp only
  split
  · exact ⟨_, raised _⟩
  · exact ⟨_, raised _⟩
  · exact ⟨_, raised _⟩
  all_goals exact ⟨_, stands⟩

/-! ## The head request off the queue -/

/-- The state once a copy's target holds the source's page, the pins are released and the request is gone (R100). -/
def copyLanded (r : CopyRequest) (s : State) : State :=
  s.setSlot r.target { s.slot r.target with state := .held, content := copyContent s r.source }
    |> releaseSource r.source |> slotUnpin r.target |> dropHead

/-- The state once a failed copy's target is EMPTY, the pins are released and the request is gone (R101). -/
def copyLost (r : CopyRequest) (s : State) : State :=
  s |> emptySlot r.target |> releaseSource r.source |> slotUnpin r.target |> dropHead

section
variable {r : CopyRequest} {rest : List CopyRequest} {source : CopySource} {n : Fin 24} {cause : CopyCause}

theorem exec_copyComplete_capture (run : s.mover.running = true)
    (queue : s.mover.queue = ⟨.capture, source, n, cause⟩ :: rest) :
    exec .copyComplete s = .next (startCopy
      (postCaptureDone ⟨.capture, source, n, cause⟩ true (copyLanded ⟨.capture, source, n, cause⟩ s))) := by
  simp only [exec, execCopyComplete, run, queue, copyLanded]

theorem exec_copyComplete_freeze (run : s.mover.running = true)
    (queue : s.mover.queue = ⟨.freeze, source, n, cause⟩ :: rest) :
    exec .copyComplete s = .next (startCopy (freezeCopied (copyLanded ⟨.freeze, source, n, cause⟩ s))) := by
  simp only [exec, execCopyComplete, run, queue, copyLanded]

theorem exec_copyFailed_capture (run : s.mover.running = true)
    (queue : s.mover.queue = ⟨.capture, source, n, cause⟩ :: rest) :
    exec .copyFailed s = .next (startCopy (postCaptureDone ⟨.capture, source, n, cause⟩ false
      (raiseCopyFault source (copyLost ⟨.capture, source, n, cause⟩ s)))) := by
  simp only [exec, execCopyFailed, run, queue, copyLost]

theorem exec_copyFailed_freeze (run : s.mover.running = true)
    (queue : s.mover.queue = ⟨.freeze, source, n, cause⟩ :: rest) :
    exec .copyFailed s = .next (startCopy (freezeFailed
      (raiseCopyFault source (copyLost ⟨.freeze, source, n, cause⟩ s)))) := by
  simp only [exec, execCopyFailed, run, queue, copyLost]

/-- With no copy running neither end of one is a step (log 3). -/
theorem exec_copyEnds_idle (idle : s.mover.running = false) :
    exec .copyComplete s = .next s ∧ exec .copyFailed s = .next s := by
  simp only [exec, execCopyComplete, execCopyFailed, idle, and_self]

theorem changes_copyLanded (h : .store ∈ ps) (k : .ring ∈ ps) (m : .mover ∈ ps) (r s) : OnlyChanges ps s (copyLanded r s) :=
  ((changes_setSlot h _ _).trans (changes_releaseSource k h _)).trans
    ((changes_slotUnpin h _).trans (changes_dropHead m))

theorem changes_copyLost (h : .store ∈ ps) (k : .ring ∈ ps) (m : .mover ∈ ps) (r s) : OnlyChanges ps s (copyLost r s) :=
  ((changes_emptySlot h _).trans (changes_releaseSource k h _)).trans
    ((changes_slotUnpin h _).trans (changes_dropHead m))

/-- A copy from slot 0 leaves the ring too. -/
theorem changes_copyLanded_slot0 (k n c s) : OnlyChanges [.store, .mover] s (copyLanded ⟨k, .slot0, n, c⟩ s) :=
  ((changes_setSlot (by simp) _ _).trans (changes_slotUnpin (by simp) _)).trans
    ((changes_slotUnpin (by simp) _).trans (changes_dropHead (by simp)))

theorem changes_copyLost_slot0 (k n c s) : OnlyChanges [.store, .mover] s (copyLost ⟨k, .slot0, n, c⟩ s) :=
  ((changes_emptySlot (by simp) _).trans (changes_slotUnpin (by simp) _)).trans
    ((changes_slotUnpin (by simp) _).trans (changes_dropHead (by simp)))

theorem copyLanded_mover (queue : s.mover.queue = r :: rest) (k : CopyRequest) : (copyLanded k s).mover = ⟨rest, false⟩ := by
  have head : (copyLanded k s).mover = ⟨s.mover.queue.tail, false⟩ := by
    rcases k with ⟨_, _ | _, _, _⟩ <;> rfl
  rw [head, queue, List.tail_cons]

theorem copyLost_mover (queue : s.mover.queue = r :: rest) (k : CopyRequest) : (copyLost k s).mover = ⟨rest, false⟩ := by
  have head : (copyLost k s).mover = ⟨s.mover.queue.tail, false⟩ := by
    rcases k with ⟨_, _ | _, _, _⟩ <;> rfl
  rw [head, queue, List.tail_cons]

/-- A slot's record replaced and then unpinned (R96). -/
theorem slots_set_unpin (slots : Table Slot 24) (n : Fin 24) (v : Slot) :
    (slots.set n v).set n { (slots.set n v).get n with pins := ((slots.set n v).get n).pins - 1 }
      = slots.set n { v with pins := v.pins - 1 } := by rw [Table.get_set_same, table_set_set]

theorem copyLanded_ring_store (k b n c) (s : State) :
    (copyLanded ⟨k, .ring b, n, c⟩ s).store = { s.store with slots := s.store.slots.set n { s.slot n with
      state := .held, pins := (s.slot n).pins - 1, content := (s.ring.buffers.get b).content } } :=
  congrArg (fun slots => { s.store with slots }) (slots_set_unpin s.store.slots n _)

theorem copyLost_ring_store (k b n c) (s : State) :
    (copyLost ⟨k, .ring b, n, c⟩ s).store = { s.store with
      slots := s.store.slots.set n
        { s.slot n with state := .empty, info := none, link := none, pins := (s.slot n).pins - 1 }
      lesson := s.store.lesson.filter fun m => decide (m ≠ n) } :=
  congrArg (fun slots => { s.store with slots, lesson := s.store.lesson.filter fun m => decide (m ≠ n) })
    (slots_set_unpin s.store.slots n _)

/-- The source pin on slot 0 and the target's pin are released from two slots (R96, R100). -/
theorem slotUnpin_slotUnpin_slot (hn : n ≠ 0) (s : State) (m : Fin 24) :
    (slotUnpin n (slotUnpin 0 s)).slot m = if m = n then { s.slot n with pins := (s.slot n).pins - 1 }
      else if m = 0 then { s.slot 0 with pins := (s.slot 0).pins - 1 } else s.slot m := by
  simp only [slotUnpin_slot, if_neg hn]

theorem copyLanded_slot0_slot (hn : n ≠ 0) (k c) (s : State) (m : Fin 24) :
    (copyLanded ⟨k, .slot0, n, c⟩ s).slot m = if m = n then
        { s.slot n with state := .held, pins := (s.slot n).pins - 1, content := (s.slot 0).content }
      else if m = 0 then { s.slot 0 with pins := (s.slot 0).pins - 1 } else s.slot m := by
  refine (slotUnpin_slotUnpin_slot hn _ m).trans ?_
  by_cases h : m = n <;> simp [h, hn.symm, copyContent]

theorem copyLost_slot0_slot (hn : n ≠ 0) (k c) (s : State) (m : Fin 24) :
    (copyLost ⟨k, .slot0, n, c⟩ s).slot m = if m = n then
        { s.slot n with state := .empty, info := none, link := none, pins := (s.slot n).pins - 1 }
      else if m = 0 then { s.slot 0 with pins := (s.slot 0).pins - 1 } else s.slot m := by
  refine (slotUnpin_slotUnpin_slot hn _ m).trans ?_
  by_cases h : m = n <;> simp [h, hn.symm, emptySlot_spec]

/-- A failed copy's fault is recorded with the frame number and the clock from before its end (R101, R174). -/
theorem copyLost_raisesAlike (r s) : RaisesAlike s (copyLost r s) where
  faults := changes_copyLost (ps := [.store, .ring, .mover]) (by simp) (by simp) (by simp) r s .faults (by simp)
  links := changes_copyLost (ps := [.store, .ring, .mover]) (by simp) (by simp) (by simp) r s .links (by simp)
  frame := congrArg (·.frameCounter)
    (changes_copyLost (ps := [.store, .ring, .mover]) (by simp) (by simp) (by simp) r s .comp (by simp))
  clock := by rcases r with ⟨_, _ | _, _, _⟩ <;> rfl

end

/-- The head request was dropped before: the next one is started unless the part is HALTED (R100). -/
theorem startCopy_mover_of_idle {rest : List CopyRequest} (h : s.mover = ⟨rest, false⟩) (faults : t.faults = s.faults) :
    (startCopy s).mover = ⟨rest, decide (rest ≠ []) && !halted t⟩ := by
  rw [startCopy_mover, h, Bool.false_or, halted_congr faults]

/-! ## CAPTURE_DONE (R103, R115) -/

/-- CAPTURE_DONE by the cause of the request, with the owner of the interval channel. -/
def captureDonePosted (cause : CopyCause) (n : Fin 24) (owner : Option Link) (done : Bool) (s : State) : State :=
  match cause with
  | .command l tag => postIssued (.captureDone tag n done false) l s
  | .interval => postFor (.captureDone 0#8 n done true) owner s

theorem postCaptureDone_links {k : CopyKind} {source : CopySource} {n : Fin 24} {cause : CopyCause} {done : Bool}
    {owner : Option Link} (h : t.links = s.links) (o : t.store.interval.owner = owner) :
    (postCaptureDone ⟨k, source, n, cause⟩ done t).links = (captureDonePosted cause n owner done s).links := by
  cases cause with
  | command l tag => exact postIssued_links_congr _ l h
  | interval => exact o ▸ postFor_links_congr _ _ h

/-! ## The freeze records (R69) -/

theorem freezeCopied_freeze_get (q : Pane) (s : State) :
    (∀ l g, s.comp.freeze.get q = .copying l g → (freezeCopied s).comp.freeze.get q = .ready l g)
      ∧ ((∀ l g, s.comp.freeze.get q ≠ .copying l g) → (freezeCopied s).comp.freeze.get q = s.comp.freeze.get q) := by
  cases q with
  | zero => cases record : s.comp.freeze.pane0 <;> simp [freezeCopied, PerPane.get, record]
  | one => cases record : s.comp.freeze.pane1 <;> simp [freezeCopied, PerPane.get, record]

/-- What a failed freeze copy makes of a record. -/
def failedRecord : FreezeRecord → FreezeRecord
  | .copying _ _ => .none
  | .none => .none
  | .ready l g => .ready l g

theorem failedRecord_of_not_copying {f : FreezeRecord} (h : ∀ l g, f ≠ .copying l g) : failedRecord f = f := by
  cases f with
  | none => rfl
  | copying l g => exact absurd rfl (h l g)
  | ready l g => rfl

/-- The issuer of a COPYING record is told that the freeze failed. -/
def frozenFailedTold (q : Pane) (f : FreezeRecord) (s : State) : State :=
  match f with
  | .copying l g => postTo (.frozen q .failed 0 g) l s
  | .none | .ready _ _ => s

theorem freezeFailedPane_comp (q : Pane) (s : State) :
    (freezeFailedPane q s).comp
      = { s.comp with freeze := s.comp.freeze.set q (failedRecord (s.comp.freeze.get q)) } := by
  cases record : s.comp.freeze.get q with
  | none | ready l g =>
    simp only [freezeFailedPane, record, failedRecord, perPane_set_get_self record]
  | copying l g => simp only [freezeFailedPane, record, failedRecord, postTo_comp, withComp_comp]

theorem freezeFailedPane_links {q : Pane} {f : FreezeRecord} (h : t.links = s.links) (record : t.comp.freeze.get q = f) :
    (freezeFailedPane q t).links = (frozenFailedTold q f s).links := by
  subst record
  unfold freezeFailedPane frozenFailedTold
  cases t.comp.freeze.get q with
  | none | ready l g => exact h
  | copying l g => exact postTo_links_congr _ l h

theorem freezeFailed_comp (s : State) :
    (freezeFailed s).comp = { s.comp with
      freeze := ⟨failedRecord s.comp.freeze.pane0, failedRecord s.comp.freeze.pane1⟩ } := by
  simp only [freezeFailed, freezeFailedPane_comp]
  rfl

theorem freezeFailed_freeze_get (q : Pane) (s : State) :
    (freezeFailed s).comp.freeze.get q = failedRecord (s.comp.freeze.get q) := by
  rw [freezeFailed_comp]
  cases q <;> rfl

/-- Pane 0's FROZEN goes first (log 37). -/
theorem freezeFailed_links {c : Compositor} (h : t.links = s.links) (comp : t.comp = c) :
    (freezeFailed t).links = (frozenFailedTold .one (c.freeze.get .one)
      (frozenFailedTold .zero (c.freeze.get .zero) s)).links := by
  subst comp
  refine freezeFailedPane_links (freezeFailedPane_links h rfl) ?_
  rw [freezeFailedPane_comp]
  rfl

/-! ## The events of an end and the start of the next request -/

theorem changes_captureEnded (r : CopyRequest) (done : Bool) (s : State) :
    OnlyChanges [.links, .mover] s (startCopy (postCaptureDone r done s)) :=
  (changes_postCaptureDone (by simp) r done).trans (changes_startCopy (by simp))

theorem captureEnded_mover {r : CopyRequest} {done : Bool} {rest : List CopyRequest} (h : s.mover = ⟨rest, false⟩)
    (faults : t.faults = s.faults) :
    (startCopy (postCaptureDone r done s)).mover = ⟨rest, decide (rest ≠ []) && !halted t⟩ := by
  have posted := changes_postCaptureDone (ps := [.links]) (s := s) (by simp) r done
  exact startCopy_mover_of_idle ((posted .mover (by simp)).trans h) (faults.trans (posted .faults (by simp)).symm)

/-! ## The four ends of a capture copy (R100, R101) -/

section
variable {n : Fin 24} {cause : CopyCause} {rest : List CopyRequest} {b : Fin 4}

theorem copyComplete_capture_ring (run : s.mover.running = true)
    (queue : s.mover.queue = ⟨.capture, .ring b, n, cause⟩ :: rest) :
    ∃ t, exec .copyComplete s = .next t
      ∧ t.store = { s.store with slots := s.store.slots.set n { s.slot n with
          state := .held, pins := (s.slot n).pins - 1, content := (s.ring.buffers.get b).content } }
      ∧ t.ring = ringUnpin b s.ring ∧ t.mover = ⟨rest, decide (rest ≠ []) && !halted s⟩
      ∧ t.links = (captureDonePosted cause n s.store.interval.owner true s).links
      ∧ OnlyChanges [.store, .ring, .mover, .links] s t := by
  have ended := changes_captureEnded ⟨.capture, .ring b, n, cause⟩ true (copyLanded ⟨.capture, .ring b, n, cause⟩ s)
  exact ⟨_, exec_copyComplete_capture run queue, (ended .store (by simp)).trans (copyLanded_ring_store ..),
    ended .ring (by simp), captureEnded_mover (copyLanded_mover queue _) rfl,
    (startCopy_links _).trans (postCaptureDone_links rfl rfl),
    (changes_copyLanded (by simp) (by simp) (by simp) _ s).trans (ended.mono (by simp))⟩

theorem copyFailed_capture_ring (run : s.mover.running = true)
    (queue : s.mover.queue = ⟨.capture, .ring b, n, cause⟩ :: rest) :
    ∃ t, exec .copyFailed s = .next t
      ∧ t.store = { s.store with
          slots := s.store.slots.set n
            { s.slot n with state := .empty, info := none, link := none, pins := (s.slot n).pins - 1 }
          lesson := s.store.lesson.filter fun m => decide (m ≠ n) }
      ∧ t.ring = ringUnpin b s.ring ∧ t.mover = ⟨rest, decide (rest ≠ []) && !halted t⟩
      ∧ (t.faults = (raiseInternal .dramUncorrectable (.ring b) s).faults
        ∧ t.links = (captureDonePosted cause n s.store.interval.owner false
            (raiseInternal .dramUncorrectable (.ring b) s)).links)
      ∧ OnlyChanges [.store, .ring, .mover, .faults, .links] s t := by
  have alike := copyLost_raisesAlike ⟨.capture, .ring b, n, cause⟩ s
  have raised := changes_raiseInternal (ps := [.links, .faults]) (s := copyLost ⟨.capture, .ring b, n, cause⟩ s)
    (by simp) (by simp) .dramUncorrectable (.ring b)
  have ended := changes_captureEnded ⟨.capture, .ring b, n, cause⟩ false
    (raiseCopyFault (.ring b) (copyLost ⟨.capture, .ring b, n, cause⟩ s))
  have store := (raised .store (by simp)).trans (copyLost_ring_store .capture b n cause s)
  exact ⟨_, exec_copyFailed_capture run queue, (ended .store (by simp)).trans store,
    (ended .ring (by simp)).trans (raised .ring (by simp)),
    captureEnded_mover ((raised .mover (by simp)).trans (copyLost_mover queue _)) (ended .faults (by simp)),
    ⟨(ended .faults (by simp)).trans (alike.raise_faults_eq ..),
      (startCopy_links _).trans (postCaptureDone_links (alike.raise_links_eq ..) (congrArg (·.interval.owner) store))⟩,
    (changes_copyLost (by simp) (by simp) (by simp) _ s).trans ((raised.mono (by simp)).trans (ended.mono (by simp)))⟩

theorem copyComplete_capture_slot0 (run : s.mover.running = true)
    (queue : s.mover.queue = ⟨.capture, .slot0, n, cause⟩ :: rest) (hn : n ≠ 0) :
    ∃ t, exec .copyComplete s = .next t
      ∧ t.slot n = { s.slot n with state := .held, pins := (s.slot n).pins - 1, content := (s.slot 0).content }
      ∧ t.slot 0 = { s.slot 0 with pins := (s.slot 0).pins - 1 } ∧ (∀ m, m ≠ n → m ≠ 0 → t.slot m = s.slot m)
      ∧ t.store = { s.store with slots := t.store.slots } ∧ t.mover = ⟨rest, decide (rest ≠ []) && !halted s⟩
      ∧ t.links = (captureDonePosted cause n s.store.interval.owner true s).links
      ∧ OnlyChanges [.store, .mover, .links] s t := by
  have ended := changes_captureEnded ⟨.capture, .slot0, n, cause⟩ true (copyLanded ⟨.capture, .slot0, n, cause⟩ s)
  have store := ended .store (by simp)
  have slot (m : Fin 24) := (congrArg (·.slots.get m) store).trans (copyLanded_slot0_slot hn .capture cause s m)
  exact ⟨_, exec_copyComplete_capture run queue, (slot n).trans (if_pos rfl),
    (slot 0).trans ((if_neg hn.symm).trans (if_pos rfl)), fun m hm h0 => (slot m).trans ((if_neg hm).trans (if_neg h0)),
    by rw [store]; rfl, captureEnded_mover (copyLanded_mover queue _) rfl,
    (startCopy_links _).trans (postCaptureDone_links rfl rfl),
    ((changes_copyLanded_slot0 _ _ _ s).mono (by simp)).trans (ended.mono (by simp))⟩

/-- A HELD slot 0 takes the damage and its fault; a DAMAGED one raises nothing (R107). -/
theorem copyFailed_capture_slot0 (run : s.mover.running = true)
    (queue : s.mover.queue = ⟨.capture, .slot0, n, cause⟩ :: rest) (hn : n ≠ 0) :
    ∃ t, exec .copyFailed s = .next t
      ∧ t.slot n = { s.slot n with state := .empty, info := none, link := none, pins := (s.slot n).pins - 1 }
      ∧ (∀ m, m ≠ n → m ≠ 0 → t.slot m = s.slot m)
      ∧ t.store = { s.store with
          slots := t.store.slots, lesson := s.store.lesson.filter fun m => decide (m ≠ n) }
      ∧ t.mover = ⟨rest, decide (rest ≠ []) && !halted t⟩
      ∧ ((s.slot 0).state = .held →
        t.slot 0 = { s.slot 0 with state := .damaged, link := none, pins := (s.slot 0).pins - 1 }
        ∧ t.faults = (raiseInternal .dramUncorrectable (.slot 0) s).faults
        ∧ t.links = (captureDonePosted cause n s.store.interval.owner false
            (raiseInternal .dramUncorrectable (.slot 0) s)).links)
      ∧ ((s.slot 0).state = .damaged →
        t.slot 0 = { s.slot 0 with pins := (s.slot 0).pins - 1 } ∧ t.faults = s.faults
        ∧ t.links = (captureDonePosted cause n s.store.interval.owner false s).links)
      ∧ OnlyChanges [.store, .mover, .faults, .links] s t := by
  have alike := copyLost_raisesAlike ⟨.capture, .slot0, n, cause⟩ s
  have lost := copyLost_slot0_slot hn .capture cause s
  have lost0 := (lost 0).trans ((if_neg hn.symm).trans (if_pos rfl))
  obtain ⟨v, hurt⟩ := damageSlot_replaces 0 (copyLost ⟨.capture, .slot0, n, cause⟩ s)
  have owner := congrArg (·.interval.owner) (hurt .store (by simp))
  have ended := changes_captureEnded ⟨.capture, .slot0, n, cause⟩ false
    (raiseCopyFault .slot0 (copyLost ⟨.capture, .slot0, n, cause⟩ s))
  have store := (ended .store (by simp)).trans (hurt .store (by simp))
  have slot0 := congrArg (·.slots.get 0) (ended .store (by simp))
  have slot (m : Fin 24) (h0 : m ≠ 0) := (congrArg (·.slots.get m) store).trans
    ((setSlot_slot _ 0 m v).trans ((if_neg h0).trans (lost m)))
  refine ⟨_, exec_copyFailed_capture run queue, (slot n hn).trans (if_pos rfl),
    fun m hm h0 => (slot m h0).trans ((if_neg hm).trans (if_neg h0)), by rw [store]; rfl,
    captureEnded_mover ((hurt .mover (by simp)).trans (copyLost_mover queue _)) (ended .faults (by simp)),
    ?held, ?damaged, ?frame⟩
  case held =>
    intro held
    obtain ⟨damaged, faults, links⟩ := damageSlot_held alike ((congrArg (·.state) lost0).trans held)
    exact ⟨slot0.trans (damaged.trans (by rw [lost0])), (ended .faults (by simp)).trans faults,
      (startCopy_links _).trans (postCaptureDone_links links owner)⟩
  case damaged =>
    intro damaged
    have stands := damageSlot_damaged ((congrArg (·.state) lost0).trans damaged)
    exact ⟨slot0.trans ((congrArg (·.slot 0) stands).trans lost0),
      (ended .faults (by simp)).trans ((congrArg (·.faults) stands).trans alike.faults),
      (startCopy_links _).trans (postCaptureDone_links ((congrArg (·.links) stands).trans alike.links) owner)⟩
  case frame =>
    exact (((changes_copyLost_slot0 _ _ _ s).trans (changes_setSlot (by simp) 0 v)).mono (by simp)).trans
      ((hurt.mono (by simp)).trans (ended.mono (by simp)))

end

end Sys2Proof.Machine.Presentation
end
section
namespace Sys2Proof.Machine.Presentation

/-- Settles O49: a capture's four ends stand above; a freeze copy's end takes the head request off the queue in the same
way, and then sets the freeze records. -/
theorem copiesEnd : Obligations.CopiesEnd := by
  unfold Obligations.CopiesEnd
  refine ⟨fun s => ⟨?capture, exec_copyEnds_idle⟩, ?freeze⟩
  case capture =>
    intro source n cause rest run queue posts emptied list
    refine ⟨?ring, ?slot0⟩
    case ring =>
      rintro b rfl released
      exact ⟨copyComplete_capture_ring run queue, copyFailed_capture_ring run queue⟩
    case slot0 =>
      rintro rfl hn unpinned
      exact ⟨copyComplete_capture_slot0 run queue hn, copyFailed_capture_slot0 run queue hn⟩
  case freeze =>
    intro s b cause rest run queue
    refine ⟨?complete, ?failed⟩
    case complete =>
      have landed := copyLanded_ring_store .freeze b 0 cause s
      refine ⟨_, exec_copyComplete_freeze run queue, ?state, ?content, ?records, ?comp, ?store, ?ring, ?mover, ?frame⟩
      case state =>
        rw [startCopy_slot]
        exact (congrArg (·.slots.get 0 |>.state) landed).trans (by rw [Table.get_set_same])
      case content =>
        rw [startCopy_slot]
        exact (congrArg (·.slots.get 0 |>.content) landed).trans (by rw [Table.get_set_same])
      case records =>
        intro q
        rw [startCopy_comp]
        exact freezeCopied_freeze_get q (copyLanded ⟨.freeze, .ring b, 0, cause⟩ s)
      case comp =>
        rw [startCopy_comp]
        rfl
      case store => exact (startCopy_store _).trans landed
      case ring => exact startCopy_ring _
      case mover => exact startCopy_mover_of_idle (copyLanded_mover queue _) rfl
      case frame =>
        exact (changes_copyLanded (by simp) (by simp) (by simp) _ s).trans
          ((changes_freezeCopied (by simp)).trans (changes_startCopy (by simp)))
    case failed =>
      have lost := copyLost_ring_store .freeze b 0 cause s
      have alike := copyLost_raisesAlike ⟨.freeze, .ring b, 0, cause⟩ s
      have raised := changes_raiseInternal (ps := [.links, .faults]) (s := copyLost ⟨.freeze, .ring b, 0, cause⟩ s)
        (by simp) (by simp) .dramUncorrectable (.ring b)
      have told := changes_freezeFailed (ps := [.comp, .links])
        (s := raiseCopyFault (.ring b) (copyLost ⟨.freeze, .ring b, 0, cause⟩ s)) (by simp) (by simp)
      have ends := (raised.mono (qs := [.comp, .links, .faults]) (by simp)).trans (told.mono (by simp))
      have comp : (raiseCopyFault (.ring b) (copyLost ⟨.freeze, .ring b, 0, cause⟩ s)).comp = s.comp :=
        raised .comp (by simp)
      have store := (startCopy_store _).trans ((ends .store (by simp)).trans lost)
      have record (q : Pane) := (congrArg (·.freeze.get q) (startCopy_comp _)).trans
        ((freezeFailed_freeze_get q _).trans (congrArg (fun c => failedRecord (c.freeze.get q)) comp))
      refine ⟨_, exec_copyFailed_freeze run queue, ?state, ?info, ?records, ?comp, store, ?ring, ?mover,
        ⟨?faults, ?links⟩, ?frame⟩
      case state => exact (congrArg (·.slots.get 0 |>.state) store).trans (by rw [Table.get_set_same])
      case info => exact (congrArg (·.slots.get 0 |>.info) store).trans (by rw [Table.get_set_same])
      case records =>
        exact fun q => ⟨fun ⟨l, g, e⟩ => (record q).trans (by rw [e]; rfl),
          fun h => (record q).trans (failedRecord_of_not_copying h)⟩
      case comp => rw [startCopy_comp, freezeFailed_comp, comp]
      case ring => exact (startCopy_ring _).trans (ends .ring (by simp))
      case mover =>
        exact startCopy_mover_of_idle ((ends .mover (by simp)).trans (copyLost_mover queue _)) (startCopy_faults _)
      case faults => exact (startCopy_faults _).trans ((told .faults (by simp)).trans (alike.raise_faults_eq ..))
      case links =>
        refine (startCopy_links _).trans ((freezeFailed_links (alike.raise_links_eq ..) comp).trans ?_)
        rfl
      case frame =>
        exact (changes_copyLost (by simp) (by simp) (by simp) _ s).trans
          ((ends.mono (by simp)).trans (changes_startCopy (by simp)))

end Sys2Proof.Machine.Presentation
end
